-- ==== Sys2Proof/Word.lean ====
section
/-! DEFINITION. The bit vectors of the CORE: one name per kind of value, with the width the spec gives it
(spec/00_scope.md R10, R15). Everything is unsigned; bit 0 is the least significant bit. -/

namespace Sys2Proof

/-- A beam word, a generator state or a generator polynomial: `WIDTH` = 17 bits (R10). -/
abbrev Word := BitVec 17

/-- The register of a Bit Accumulator: `ACC_BITS` = 18 bits (R10, R26). -/
abbrev Acc := BitVec 18

/-- A timestamp: `TS_BITS` = 24 bits, "wraps at 2^24" (R10). -/
abbrev Timestamp := BitVec 24

/-- The sensor a pulse came from: `SENSOR_BITS` = 2 bits (R10). -/
abbrev SensorId := BitVec 2

/-- A catalog index as the Search Unit reports it: 5 bits (R28, D14). -/
abbrev CatalogIndex := BitVec 5

/-- The identification code of an emitted record: `POLYIDX_BITS` = 6 bits (R10). -/
abbrev PolyIndex := BitVec 6

/-- A sensor line. `sensorId` has 2 bits, so there are at most four (R205). -/
abbrev Line := Fin 4

/-- A search slot, which is also the number of its catalog entry: `NSLOTS` = 32 (R10, R22). -/
abbrev Slot := Fin 32

end Sys2Proof
end

