-- ==== Sys2Proof/Machine/Constants.lean ====
section
/-! DEFINITION. The constants the source fixes (spec/00_scope.md R10) and the polynomial catalog (spec/20_memory.md R50, R51),
the only memory of the CORE: read-only, "fixed at startup, order-significant", no part of the state (R30, notes/assumptions/17.md). -/

namespace Sys2Proof.Machine

/-- `WINDOW`: the trailing comparison window, in ticks (R10; spec/90_conflicts.md C1;
notes/assumptions/26.md). -/
def window : Nat := 4

/-- `SCALE_SHIFT`: "prediction scale factor = divide-by-4" (R10). -/
def scaleShift : Nat := 2

/-- `MARGIN`: "prediction margin = +2 ticks" (R10). -/
def margin : Nat := 2

/-- `UNIDENT`: the code for "unidentified" (R10, R80). -/
def unident : PolyIndex := 0x3F

/-- `INVALID_WORD`: the beam word reserved as "invalid/incomplete" (R10, R80). No operation tests for it (R172). -/
def invalidWord : Word := 0

/-- The catalog, index 0 first (R51). -/
def catalog : Vector Word 32 :=
  #v[0x1D258, 0x17E04, 0x1FF6B, 0x13F67, 0x1B9EE, 0x198D1, 0x178C7, 0x18A55,
     0x15777, 0x1D911, 0x15769, 0x1991F, 0x12BD0, 0x1CF73, 0x1365D, 0x197F5,
     0x194A0, 0x1B279, 0x13A34, 0x1AE41, 0x180D4, 0x17891, 0x12E64, 0x17C72,
     0x19C6D, 0x13F32, 0x1AE14, 0x14E76, 0x13C97, 0x130CB, 0x13750, 0x1CB8D]

/-- `CatRead(i)` (R50): the same value in every tick (R66). -/
def catRead (i : Slot) : Word := catalog[i]

end Sys2Proof.Machine
end

