-- ==== Sys2Proof/Syntax.lean ====
section
/-! DEFINITION. The operations of the CORE, one constructor per row of spec/opcode_table.json, and the records they carry
(spec/30_encoding.md R70 to R78). An operation holds the bits of its control vector that its row does not fix, and the operand
fields that "travel beside the control vector" (R70). -/

namespace Sys2Proof

/-- A `PulseRecord` (R76). `pulseWidth` is a number below `2^PW_BITS` that no rule computes with (notes/assumptions/15.md). -/
structure PulseRecord where
  sensorId : SensorId
  timestamp : Timestamp
  pulseWidth : Nat
  beamWord : Word
deriving DecidableEq, Repr

/-- An `IdentifiedPulseRecord` (R77): the four fields of the `PulseRecord`, unchanged, and `polyIndex`. -/
structure IdentifiedPulse where
  pulse : PulseRecord
  polyIndex : PolyIndex
deriving DecidableEq, Repr

/-- A start request `(startWord, targetWord, tickBudget)` (R78). `tickBudget` is a number below `2^CW`
(notes/assumptions/15.md). -/
structure StartRequest where
  startWord : Word
  targetWord : Word
  tickBudget : Nat
deriving DecidableEq, Repr

/-- The operations. A Boolean argument named like an input port is the bit of that port in the control vector. -/
inductive Instr where
  /-- `CORE.RESET` (R220). -/
  | coreReset
  /-- `BA.RESET`, `c = 1tvb` (R116). -/
  | baReset (line : Line) (take bitValid bitIn : Bool)
  /-- `BA.TAKE_OFFER`, `c = 011b` (R115). -/
  | baTakeOffer (line : Line) (bitIn : Bool)
  /-- `BA.TAKE`, `c = 010b` (R114); the bit is ignored. -/
  | baTake (line : Line) (bitIn : Bool)
  /-- `BA.OFFER`, `c = 001b` (R113). -/
  | baOffer (line : Line) (bitIn : Bool)
  /-- `BA.HOLD`, `c = 000b` (R112); the bit is ignored. -/
  | baHold (line : Line) (bitIn : Bool)
  /-- `SG.RESET`, `g = 1s` (R102). -/
  | sgReset (slot : Slot) (step : Bool) (seed : Word)
  /-- `SG.ADVANCE`, `g = 01` (R101). -/
  | sgAdvance (slot : Slot)
  /-- `SG.HOLD`, `g = 00` (R104). -/
  | sgHold (slot : Slot)
  /-- `SG.VALUE`, any `g` (R103). -/
  | sgValue (slot : Slot) (load step : Bool)
  /-- `SU.HOLD`, `u = 00` (R131). -/
  | suHold
  /-- `SU.START`, `u = 01` (R132). -/
  | suStart (request : StartRequest)
  /-- `SU.STEP`, `u = 10` (R133). -/
  | suStep
  /-- `SU.STEP_REJECT`, `u = 11` (R138); the request is ignored. -/
  | suStepReject (request : StartRequest)
  /-- `PIC.WAIT_PULSE`, `p = 000rb` (R161). -/
  | picWaitPulse (sinkReady busy : Bool)
  /-- `PIC.ACCEPT`, `p = 001rb` (R162). -/
  | picAccept (sinkReady busy : Bool) (pulse : PulseRecord)
  /-- `PIC.PREDICT`, `p = 01vrb` (R163 to R166). -/
  | picPredict (pulseValid sinkReady busy : Bool)
  /-- `PIC.WAIT_SEARCH`, `p = 10vr1` (R167). -/
  | picWaitSearch (pulseValid sinkReady : Bool)
  /-- `PIC.COLLECT`, `p = 10vr0` (R168), with the Search Unit's outputs as operands. -/
  | picCollect (pulseValid sinkReady : Bool) (found : Bool) (matchedIndex : CatalogIndex)
  /-- `PIC.HOLD_EMIT`, `p = 11v0b` (R169). -/
  | picHoldEmit (pulseValid busy : Bool)
  /-- `PIC.EMIT`, `p = 11v1b` (R171). -/
  | picEmit (pulseValid busy : Bool)
deriving DecidableEq, Repr

end Sys2Proof
end

