-- ==== Sys2Proof/Decode.lean ====
section
/-! DEFINITION. Control vectors and operations (spec/30_encoding.md R70 to R75): the rows of the opcode table, the decoder,
total and refusing by name, and the encoder. There is no instruction word in this hardware: what a decoder reads is the
control vector of ONE block in one tick, and the operand fields beside it (R70, R76, R77: no packed layout exists). -/

namespace Sys2Proof

/-- The formats of control vectors (R71 to R75). -/
inductive Format where
  /-- `{rst}` (R75). -/
  | g
  /-- `{env_end, take, bit_valid, bit_in}` (R71). -/
  | ba
  /-- `{load, step}` (R72). -/
  | sg
  /-- `{load, step}`, the continuous read (R72). -/
  | sgr
  /-- `{su_state, start_valid}` (R73). -/
  | su
  /-- `{pic_state[1:0], pulse_valid, sink_ready, busy}` (R74). -/
  | pic
deriving DecidableEq, Repr

/-- The number of bits in a format's vector. -/
def Format.width : Format → Nat
  | .g => 1
  | .ba => 4
  | .sg => 2
  | .sgr => 2
  | .su => 2
  | .pic => 5

/-- Whose control vector it is. -/
inductive Block where
  /-- The global vector, read by every block (R75). -/
  | core
  /-- The accumulator of one line. -/
  | ba (line : Line)
  /-- The generator of one slot. -/
  | sg (slot : Slot)
  /-- The read of one slot. -/
  | sgr (slot : Slot)
  /-- The Search Unit. -/
  | su
  /-- The Pulse Identification Controller. -/
  | pic
deriving DecidableEq, Repr

/-- The format of a block's vector. -/
def Block.format : Block → Format
  | .core => .g
  | .ba _ => .ba
  | .sg _ => .sg
  | .sgr _ => .sgr
  | .su => .su
  | .pic => .pic

/-- The operand fields beside a control vector (R70): each is a port of its own. A block reads those its operation names. -/
structure Operands where
  /-- `seed` of `SG.RESET` (R72). -/
  seed : Word
  /-- The start request of `SU.START` and `SU.STEP_REJECT` (R78). -/
  request : StartRequest
  /-- `pulse_in` of `PIC.ACCEPT` (R76). -/
  pulse : PulseRecord
  /-- The Search Unit's `found`, read by `PIC.COLLECT` (R74). -/
  found : Bool
  /-- The Search Unit's `matchedIndex`, read by `PIC.COLLECT` (R74). -/
  matchedIndex : CatalogIndex
deriving DecidableEq, Repr

/-- Operand fields that are all 0. -/
def Operands.zero : Operands :=
  { seed := 0
    request := { startWord := 0, targetWord := 0, tickBudget := 0 }
    pulse := { sensorId := 0, timestamp := 0, pulseWidth := 0, beamWord := 0 }
    found := false
    matchedIndex := 0 }

/-- What a block is given in one tick: its control vector, in the low bits of a byte as spec/opcode_table.json numbers them,
and the operand fields. -/
structure Encoded where
  block : Block
  vector : BitVec 8
  operands : Operands
deriving DecidableEq, Repr

/-- Why a vector selects no operation (notes/assumptions/25.md). -/
inductive DecodeError where
  /-- A bit above the format's width is 1. -/
  | vectorTooWide
  /-- Format G's vector is 0: "`0` lets each block decode its own vector" (R75). -/
  | noGlobalOperation
  /-- No row of the format matches. R70 says that this does not occur. -/
  | noRow
deriving DecidableEq, Repr

/-! ### The opcode table -/

/-- One row of spec/opcode_table.json. -/
structure OpRow where
  mnemonic : String
  format : Format
  matchBits : BitVec 8
  maskBits : BitVec 8
deriving DecidableEq, Repr

/-- The row selects the vector: no bit above the format's width, and the fixed bits as the row has them. -/
def OpRow.selects (r : OpRow) (v : BitVec 8) : Bool :=
  decide (v.toNat < 2 ^ r.format.width) && (v &&& r.maskBits == r.matchBits)

/-- The rows of spec/opcode_table.json, in its order. -/
def opcodeRows : List OpRow :=
  [ ⟨"CORE.RESET", .g, 0x01, 0x01⟩,
    ⟨"BA.RESET", .ba, 0x08, 0x08⟩,
    ⟨"BA.TAKE_OFFER", .ba, 0x06, 0x0E⟩,
    ⟨"BA.TAKE", .ba, 0x04, 0x0E⟩,
    ⟨"BA.OFFER", .ba, 0x02, 0x0E⟩,
    ⟨"BA.HOLD", .ba, 0x00, 0x0E⟩,
    ⟨"SG.RESET", .sg, 0x02, 0x02⟩,
    ⟨"SG.ADVANCE", .sg, 0x01, 0x03⟩,
    ⟨"SG.HOLD", .sg, 0x00, 0x03⟩,
    ⟨"SG.VALUE", .sgr, 0x00, 0x00⟩,
    ⟨"SU.HOLD", .su, 0x00, 0x03⟩,
    ⟨"SU.START", .su, 0x01, 0x03⟩,
    ⟨"SU.STEP", .su, 0x02, 0x03⟩,
    ⟨"SU.STEP_REJECT", .su, 0x03, 0x03⟩,
    ⟨"PIC.WAIT_PULSE", .pic, 0x00, 0x1C⟩,
    ⟨"PIC.ACCEPT", .pic, 0x04, 0x1C⟩,
    ⟨"PIC.PREDICT", .pic, 0x08, 0x18⟩,
    ⟨"PIC.WAIT_SEARCH", .pic, 0x11, 0x19⟩,
    ⟨"PIC.COLLECT", .pic, 0x10, 0x19⟩,
    ⟨"PIC.HOLD_EMIT", .pic, 0x18, 0x1A⟩,
    ⟨"PIC.EMIT", .pic, 0x1A, 0x1A⟩ ]

/-- The mnemonic of an operation's row. -/
def Instr.mnemonic : Instr → String
  | .coreReset => "CORE.RESET"
  | .baReset _ _ _ _ => "BA.RESET"
  | .baTakeOffer _ _ => "BA.TAKE_OFFER"
  | .baTake _ _ => "BA.TAKE"
  | .baOffer _ _ => "BA.OFFER"
  | .baHold _ _ => "BA.HOLD"
  | .sgReset _ _ _ => "SG.RESET"
  | .sgAdvance _ => "SG.ADVANCE"
  | .sgHold _ => "SG.HOLD"
  | .sgValue _ _ _ => "SG.VALUE"
  | .suHold => "SU.HOLD"
  | .suStart _ => "SU.START"
  | .suStep => "SU.STEP"
  | .suStepReject _ => "SU.STEP_REJECT"
  | .picWaitPulse _ _ => "PIC.WAIT_PULSE"
  | .picAccept _ _ _ => "PIC.ACCEPT"
  | .picPredict _ _ _ => "PIC.PREDICT"
  | .picWaitSearch _ _ => "PIC.WAIT_SEARCH"
  | .picCollect _ _ _ _ => "PIC.COLLECT"
  | .picHoldEmit _ _ => "PIC.HOLD_EMIT"
  | .picEmit _ _ => "PIC.EMIT"

/-! ### The decoder -/

/-- Format G (R75). -/
def decodeCore (v : BitVec 8) : Except DecodeError Instr :=
  if v &&& 0x01 = 0x01 then .ok .coreReset
  else .error .noGlobalOperation

/-- Format BA, in the order of R71's table: `c[3:0] = {env_end, take, bit_valid, bit_in}`. -/
def decodeBa (line : Line) (v : BitVec 8) : Except DecodeError Instr :=
  if v &&& 0x08 = 0x08 then .ok (.baReset line (v.getLsbD 2) (v.getLsbD 1) (v.getLsbD 0))
  else if v &&& 0x0E = 0x06 then .ok (.baTakeOffer line (v.getLsbD 0))
  else if v &&& 0x0E = 0x04 then .ok (.baTake line (v.getLsbD 0))
  else if v &&& 0x0E = 0x02 then .ok (.baOffer line (v.getLsbD 0))
  else if v &&& 0x0E = 0x00 then .ok (.baHold line (v.getLsbD 0))
  else .error .noRow

/-- Format SG (R72): `g[1:0] = {load, step}`. -/
def decodeSg (slot : Slot) (v : BitVec 8) (ops : Operands) : Except DecodeError Instr :=
  if v &&& 0x02 = 0x02 then .ok (.sgReset slot (v.getLsbD 0) ops.seed)
  else if v &&& 0x03 = 0x01 then .ok (.sgAdvance slot)
  else if v &&& 0x03 = 0x00 then .ok (.sgHold slot)
  else .error .noRow

/-- Format SGR (R72): every vector reads the slot. -/
def decodeSgr (slot : Slot) (v : BitVec 8) : Except DecodeError Instr :=
  .ok (.sgValue slot (v.getLsbD 1) (v.getLsbD 0))

/-- Format SU (R73): `u[1:0] = {su_state, start_valid}`. -/
def decodeSu (v : BitVec 8) (ops : Operands) : Except DecodeError Instr :=
  if v &&& 0x03 = 0x00 then .ok .suHold
  else if v &&& 0x03 = 0x01 then .ok (.suStart ops.request)
  else if v &&& 0x03 = 0x02 then .ok .suStep
  else if v &&& 0x03 = 0x03 then .ok (.suStepReject ops.request)
  else .error .noRow

/-- Format PIC (R74): `p[4:0] = {pic_state[1:0], pulse_valid, sink_ready, busy}`. -/
def decodePic (v : BitVec 8) (ops : Operands) : Except DecodeError Instr :=
  if v &&& 0x1C = 0x00 then .ok (.picWaitPulse (v.getLsbD 1) (v.getLsbD 0))
  else if v &&& 0x1C = 0x04 then .ok (.picAccept (v.getLsbD 1) (v.getLsbD 0) ops.pulse)
  else if v &&& 0x18 = 0x08 then .ok (.picPredict (v.getLsbD 2) (v.getLsbD 1) (v.getLsbD 0))
  else if v &&& 0x19 = 0x11 then .ok (.picWaitSearch (v.getLsbD 2) (v.getLsbD 1))
  else if v &&& 0x19 = 0x10 then .ok (.picCollect (v.getLsbD 2) (v.getLsbD 1) ops.found ops.matchedIndex)
  else if v &&& 0x1A = 0x18 then .ok (.picHoldEmit (v.getLsbD 2) (v.getLsbD 0))
  else if v &&& 0x1A = 0x1A then .ok (.picEmit (v.getLsbD 2) (v.getLsbD 0))
  else .error .noRow

/-- The operation a block's control vector selects (R70): total, and refusing by name a vector that is wider than its format
and format G's 0. -/
def decode (e : Encoded) : Except DecodeError Instr :=
  if e.vector.toNat < 2 ^ e.block.format.width then
    match e.block with
    | .core => decodeCore e.vector
    | .ba line => decodeBa line e.vector
    | .sg slot => decodeSg slot e.vector e.operands
    | .sgr slot => decodeSgr slot e.vector
    | .su => decodeSu e.vector e.operands
    | .pic => decodePic e.vector e.operands
  else .error .vectorTooWide

/-! ### The encoder -/

/-- The vector whose bits are given from the most significant down, as the spec writes `{a, b, c}`. -/
def vectorOf (bits : List Bool) : BitVec 8 :=
  bits.foldl (fun v b => (v <<< 1) ||| BitVec.zeroExtend 8 (BitVec.ofBool b)) 0

/-- The control vector an operation is selected by, with the operand fields it names; the fields it does not name are 0. -/
def encode : Instr → Encoded
  | .coreReset => ⟨.core, vectorOf [true], .zero⟩
  | .baReset line t v b => ⟨.ba line, vectorOf [true, t, v, b], .zero⟩
  | .baTakeOffer line b => ⟨.ba line, vectorOf [false, true, true, b], .zero⟩
  | .baTake line b => ⟨.ba line, vectorOf [false, true, false, b], .zero⟩
  | .baOffer line b => ⟨.ba line, vectorOf [false, false, true, b], .zero⟩
  | .baHold line b => ⟨.ba line, vectorOf [false, false, false, b], .zero⟩
  | .sgReset slot step seed => ⟨.sg slot, vectorOf [true, step], { Operands.zero with seed := seed }⟩
  | .sgAdvance slot => ⟨.sg slot, vectorOf [false, true], .zero⟩
  | .sgHold slot => ⟨.sg slot, vectorOf [false, false], .zero⟩
  | .sgValue slot load step => ⟨.sgr slot, vectorOf [load, step], .zero⟩
  | .suHold => ⟨.su, vectorOf [false, false], .zero⟩
  | .suStart request => ⟨.su, vectorOf [false, true], { Operands.zero with request := request }⟩
  | .suStep => ⟨.su, vectorOf [true, false], .zero⟩
  | .suStepReject request => ⟨.su, vectorOf [true, true], { Operands.zero with request := request }⟩
  | .picWaitPulse r b => ⟨.pic, vectorOf [false, false, false, r, b], .zero⟩
  | .picAccept r b pulse => ⟨.pic, vectorOf [false, false, true, r, b], { Operands.zero with pulse := pulse }⟩
  | .picPredict v r b => ⟨.pic, vectorOf [false, true, v, r, b], .zero⟩
  | .picWaitSearch v r => ⟨.pic, vectorOf [true, false, v, r, true], .zero⟩
  | .picCollect v r found index =>
      ⟨.pic, vectorOf [true, false, v, r, false], { Operands.zero with found := found, matchedIndex := index }⟩
  | .picHoldEmit v b => ⟨.pic, vectorOf [true, true, v, false, b], .zero⟩
  | .picEmit v b => ⟨.pic, vectorOf [true, true, v, true, b], .zero⟩

/-! ### A number of the opcode table -/

/-- The formats a bare number of `nbits` bits may belong to. A number says nothing of its format, and the formats' numbers
overlap (notes/assumptions/12.md; DESIGN CHOICE). Formats SG and SGR are left out: a slot's control is "driven by the SU,
never by a port of the CORE" (R72). -/
def tableFormats (nbits : Nat) : List Format :=
  if nbits = 1 then [.g]
  else if nbits = 2 then [.su]
  else if nbits = 4 then [.ba]
  else if nbits = 5 then [.pic]
  else [.g, .ba, .su, .pic]

/-- The row a bare number is read as: the first row, in the table's order, whose `match` is the number itself; where there is
none, the first row that selects it (notes/assumptions/12.md). -/
def tableRow (nbits w : Nat) : Option OpRow :=
  if w < 256 then
    let v := BitVec.ofNat 8 w
    let rows := opcodeRows.filter fun r => (tableFormats nbits).contains r.format
    match rows.find? fun r => r.matchBits == v with
    | some r => some r
    | none => rows.find? fun r => r.selects v
  else none

/-- The block a bare number is given to: line 0 and slot 0 where the format has several. -/
def Format.firstBlock : Format → Block
  | .g => .core
  | .ba => .ba 0
  | .sg => .sg 0
  | .sgr => .sgr 0
  | .su => .su
  | .pic => .pic

/-- A bare number as a control vector whose operand fields are all 0. -/
def tableEncoded (nbits w : Nat) : Option Encoded :=
  (tableRow nbits w).map fun r => ⟨r.format.firstBlock, BitVec.ofNat 8 w, .zero⟩

/-- The operation the decoder reads from a bare number of spec/opcode_table.json. -/
def decodeTableWord (nbits w : Nat) : Option Instr :=
  match tableEncoded nbits w with
  | some e => (decode e).toOption
  | none => none

end Sys2Proof
end

