-- ==== Sys2Proof/Config.lean ====
section
/-! DEFINITION. What an implementation fixes and what the spec leaves free: the open parameters of
spec/00_scope.md R11, and the one constant without a body from which every free value is drawn. -/

namespace Sys2Proof

/-- The parameters the source leaves open (R11, spec/92_eei_decisions.md section 2): "A model takes each as an argument".
They stand in the machine's state, where no step writes them (notes/assumptions/5.md). -/
structure Params where
  /-- `CW`: bits in the Search Unit's `ticksRemaining` counter, at least 3. -/
  cw : Nat
  /-- `PW_BITS`: bits in the pass-through field `pulseWidth`, at least 1. -/
  pwBits : Nat
  /-- `NSENSORS`: number of Bit Accumulators, 1 to 4. -/
  nsensors : Nat
  /-- `LAST_TS_RESET`: value of `lastTimestamp` after `CORE.RESET`. -/
  lastTsReset : Timestamp
  /-- `LAST_WORD_RESET`: value of `lastWord` after `CORE.RESET`. -/
  lastWordReset : Word
deriving DecidableEq, Repr

/-- The parameters of the machine that `State.reset` describes. `CW` = 10 is the spec's default (R11); the other four are a
DESIGN CHOICE (notes/assumptions/5.md; unsafe): the spec gives them no value. No statement rests on them. -/
def Params.atReset : Params :=
  { cw := 10, pwBits := 32, nsensors := 4, lastTsReset := 0, lastWordReset := 0 }

namespace Config

/-- Every value the spec leaves open and after which the machine goes on, each by the register or choice it stands for
(notes/assumptions/19.md). -/
inductive FreeSource where
  /-- `slot[i]` after `CORE.RESET` (R34). -/
  | slot (i : Slot)
  /-- `target` after `CORE.RESET` (R34). -/
  | target
  /-- `ticksRemaining` after `CORE.RESET` (R34). -/
  | ticksRemaining
  /-- `matchedIndex` while `found` = 0 (R137, spec/93_implementation_defined.md U4). -/
  | matchedIndex
  /-- `ep_start` after `CORE.RESET` (R34). -/
  | epStart
  /-- `ep_budget` after `CORE.RESET` (R34). -/
  | epBudget
  /-- `cur.sensorId` after `CORE.RESET` (R34). -/
  | curSensorId
  /-- `cur.timestamp` after `CORE.RESET` (R34). -/
  | curTimestamp
  /-- `cur.pulseWidth` after `CORE.RESET` (R34). -/
  | curPulseWidth
  /-- `cur.beamWord` after `CORE.RESET` (R34). -/
  | curBeamWord
  /-- `polyIndex` after `CORE.RESET` (R34). -/
  | polyIndex
  /-- The decremented counter of an `SU.STEP` whose counter already was 0, which R139 excludes. -/
  | ticksBelowOne
  /-- Whose request the start port carries when two requesters drive it in one tick (U10). -/
  | startContention
deriving DecidableEq, Repr

/-- A FREE VALUE: no body, so nothing can be proved of it (notes/assumptions/19.md). The second argument is the state's
counter of draws, so that two draws need not agree. -/
opaque freeValue : FreeSource → Nat → Nat

end Config

end Sys2Proof
end

