-- ==== Sys2Proof/WellFormed.lean ====
section
/-! DEFINITION. Which parameters describe a machine (spec/92_eei_decisions.md section 2) and which operations a machine with
given parameters has: those whose line exists and whose operands fit the widths of their ports (spec/30_encoding.md R71 to R76). -/

namespace Sys2Proof

/-- `MAXB = 2^CW - 1`, the largest representable tick budget (R11). -/
def Params.maxB (p : Params) : Nat := 2 ^ p.cw - 1

/-- The ranges of the open parameters (spec/92_eei_decisions.md section 2). -/
def Params.wf (p : Params) : Bool :=
  decide (3 ≤ p.cw) && decide (1 ≤ p.pwBits) && decide (1 ≤ p.nsensors) && decide (p.nsensors ≤ 4)

/-- The line has an accumulator (R20: `s` in `0 .. NSENSORS-1`). -/
def Params.hasLine (p : Params) (line : Line) : Bool := decide (line.val < p.nsensors)

/-- `pulseWidth` fits its `PW_BITS` bits (R76). -/
def PulseRecord.wf (p : Params) (r : PulseRecord) : Bool := decide (r.pulseWidth < 2 ^ p.pwBits)

/-- `tickBudget` fits its `CW` bits (R73). A budget of 0 is an encodable request, which R144 refuses. -/
def StartRequest.wf (p : Params) (r : StartRequest) : Bool := decide (r.tickBudget < 2 ^ p.cw)

/-- The operation is one of the machine with parameters `p`. -/
def Instr.wf (p : Params) : Instr → Bool
  | .coreReset => true
  | .baReset line _ _ _ => p.hasLine line
  | .baTakeOffer line _ => p.hasLine line
  | .baTake line _ => p.hasLine line
  | .baOffer line _ => p.hasLine line
  | .baHold line _ => p.hasLine line
  | .sgReset _ _ _ => true
  | .sgAdvance _ => true
  | .sgHold _ => true
  | .sgValue _ _ _ => true
  | .suHold => true
  | .suStart request => request.wf p
  | .suStep => true
  | .suStepReject request => request.wf p
  | .picWaitPulse _ _ => true
  | .picAccept _ _ pulse => pulse.wf p
  | .picPredict _ _ _ => true
  | .picWaitSearch _ _ => true
  | .picCollect _ _ _ _ => true
  | .picHoldEmit _ _ => true
  | .picEmit _ _ => true

end Sys2Proof
end

