-- ==== Sys2Proof/Machine/State.lean ====
section
/-! DEFINITION. The state of the CORE as plain data (spec/10_state.md), block by block, with what the outside presents and
sees (spec/30_encoding.md R71 to R75), why a tick can stop, and the machine right after reset (R34). -/

namespace Sys2Proof.Machine

/-! ### Registers -/

/-- `su_state` (R23): Idle = 0, Searching = 1. -/
inductive SuState where
  | idle
  | searching
deriving DecidableEq, Repr

/-- `pic_state` (R24): Idle = 0, PredictWindow = 1, Searching = 2, Emit = 3. -/
inductive PicState where
  | idle
  | predictWindow
  | searching
  | emit
deriving DecidableEq, Repr

/-- The registers of the Search Unit (R22, R23, R28). -/
structure SuRegs where
  /-- `su_state`. -/
  state : SuState
  /-- `slot[0] .. slot[31]`. -/
  slots : Vector Word 32
  /-- `target`, the episode's `targetWord`. -/
  target : Word
  /-- `ticksRemaining`, a number below `2^CW`. -/
  ticksRemaining : Nat
  /-- `matched`, exported as `found`. -/
  matched : Bool
  /-- `matchedIndex`, meaningful only while `matched` is 1. -/
  matchedIndex : CatalogIndex
  /-- `ep_start`, the episode's `startWord`. -/
  epStart : Word
  /-- `ep_budget`, the episode's `tickBudget`, a number below `2^CW`. -/
  epBudget : Nat
deriving DecidableEq, Repr

/-- The registers of the Pulse Identification Controller (R24, R29). -/
structure PicRegs where
  /-- `pic_state`. -/
  state : PicState
  /-- `cur`, the record being processed. -/
  cur : PulseRecord
  /-- `polyIndex`. -/
  polyIndex : PolyIndex
  /-- `lastTimestamp`. -/
  lastTimestamp : Timestamp
  /-- `lastWord`. -/
  lastWord : Word
deriving DecidableEq, Repr

/-! ### Inputs -/

/-- The control inputs of one accumulator in one tick (R71). -/
structure BaInputs where
  envEnd : Bool
  take : Bool
  bitValid : Bool
  bitIn : Bool
deriving DecidableEq, Repr

/-- All control inputs 0. -/
def BaInputs.idle : BaInputs := { envEnd := false, take := false, bitValid := false, bitIn := false }

/-- What the outside presents in one tick (R71, R74, R75). -/
structure TickInputs where
  /-- The global reset (R75). -/
  rst : Bool
  /-- The inputs of each line's accumulator. -/
  ba : Vector BaInputs 4
  /-- `pulse_in` where `pulse_valid` is 1, none where it is 0 (R74). -/
  pulse : Option PulseRecord
  /-- `sink_ready` (R74). -/
  sinkReady : Bool
  /-- A start request from a requester other than the controller: the stimulus `SU START` of R82, and
  spec/93_implementation_defined.md U10. The assembled CORE has none (notes/assumptions/11.md). -/
  start : Option StartRequest
deriving DecidableEq, Repr

/-- "A block with no line in a tick has all its control inputs 0 in that tick" (R82). -/
def TickInputs.idle : TickInputs :=
  { rst := false, ba := Vector.replicate 4 .idle, pulse := none, sinkReady := false, start := none }

/-! ### Output ports -/

/-- What one accumulator's outputs showed in a tick (R71, R110). -/
structure BaPorts where
  /-- `accepted`: the offered bit was shifted in. -/
  accepted : Bool
  /-- `word_valid`. -/
  wordValid : Bool
  /-- `word`, to be used only where `word_valid` is 1. -/
  word : Word
  /-- The result of `take`. -/
  taken : Option Word
deriving DecidableEq, Repr

/-- What the Search Unit's outputs showed in a tick (R73, R130). -/
structure SuPorts where
  startAccepted : Bool
  busy : Bool
  found : Bool
  /-- Meaningful only where `found` is 1. -/
  matchedIndex : CatalogIndex
deriving DecidableEq, Repr

/-- What the controller's outputs showed in a tick (R74, R160). -/
structure PicPorts where
  pulseReady : Bool
  outValid : Bool
  /-- `out` where `out_valid` is 1; the port has no defined value otherwise (notes/assumptions/4.md). -/
  out : Option IdentifiedPulse
  /-- The start request where `start_valid` is 1. -/
  start : Option StartRequest
  /-- The record the merge layer handed over in this tick: `pulse_valid` and `pulse_ready` both 1 (R74). -/
  consumed : Option PulseRecord
  /-- The record the sink took in this tick: `out_valid` and `sink_ready` both 1 (R171). -/
  emitted : Option IdentifiedPulse
deriving DecidableEq, Repr

/-- Accumulator ports that show nothing. -/
def BaPorts.quiet : BaPorts := { accepted := false, wordValid := false, word := 0, taken := none }

/-- Search Unit ports that show nothing. -/
def SuPorts.quiet : SuPorts := { startAccepted := false, busy := false, found := false, matchedIndex := 0 }

/-- Controller ports that show nothing. -/
def PicPorts.quiet : PicPorts :=
  { pulseReady := false, outValid := false, out := none, start := none, consumed := none, emitted := none }

/-! ### The whole state -/

/-- The state of the CORE: the registers of rules R22 to R29, the open parameters, and the model's own fields (the script,
the ports of the last tick, the counter of draws). INVENTORY.md lists every one. -/
structure State where
  /-- The open parameters (R11), which no step writes. -/
  params : Params
  /-- `BA[s].acc`; the lines at or above `NSENSORS` have no accumulator (notes/assumptions/16.md). -/
  accs : Vector Acc 4
  /-- The Search Unit. -/
  su : SuRegs
  /-- The Pulse Identification Controller. -/
  pic : PicRegs
  /-- The model's own: the inputs of the coming ticks, the next tick's first (R82, notes/assumptions/3.md). -/
  script : List TickInputs
  /-- The model's own: each accumulator's ports in the last tick (notes/assumptions/4.md). -/
  baPorts : Vector BaPorts 4
  /-- The model's own: the Search Unit's ports in the last tick. -/
  suPorts : SuPorts
  /-- The model's own: the controller's ports in the last tick. -/
  picPorts : PicPorts
  /-- The model's own: what the last `SG.VALUE` returned (notes/assumptions/21.md). -/
  sgPort : Option Word
  /-- The model's own: how many free values have been drawn (notes/assumptions/19.md). -/
  draws : Nat
deriving DecidableEq, Repr

/-! ### Why a tick can stop -/

/-- There is no fault: "No exceptions; every abnormal condition degrades to a sentinel, never a fatal fault" (R190). -/
inductive Fault where
deriving DecidableEq, Repr

/-- Why a tick has no meaning. -/
inductive Refusal where
  /-- Raised by `exec`'s arm of an operation that has no meaning in this model. Safe. No arm raises it. -/
  | notModelled (mnemonic : String)
  /-- Raised by `SU.START` with `tickBudget` = 0: "a model refuses a start with `tickBudget = 0`" (R144). Safe. -/
  | zeroBudget
  /-- Raised by an accumulator operation on a line the machine does not have (notes/assumptions/14.md). Safe: a tick gives
  vectors to the accumulators that exist and to no other. -/
  | noSuchLine
  /-- Raised by a tick in which a block's vector selects no operation. Safe: R70 says that there is none. -/
  | undecodable (reason : DecodeError)
deriving DecidableEq, Repr

/-! ### Reset -/

/-- The empty accumulator: the sentinel at bit 0 (R26). -/
def emptyAcc : Acc := 0x00001

/-- A pulse record of zeros, which stands in `cur` until a pulse is accepted (notes/assumptions/6.md). -/
def zeroPulse : PulseRecord := { sensorId := 0, timestamp := 0, pulseWidth := 0, beamWord := 0 }

/-- The machine right after `CORE.RESET` (R34). The accumulators, `su_state`, `matched` and `pic_state` are as the rule says;
`lastTimestamp` and `lastWord` hold the parameters; the registers the rule leaves unspecified hold 0, a DESIGN CHOICE
(notes/assumptions/6.md; unsafe). -/
def State.reset : State :=
  { params := Params.atReset
    accs := Vector.replicate 4 emptyAcc
    su :=
      { state := .idle, slots := Vector.replicate 32 0, target := 0, ticksRemaining := 0, matched := false
        matchedIndex := 0, epStart := 0, epBudget := 0 }
    pic :=
      { state := .idle, cur := zeroPulse, polyIndex := 0, lastTimestamp := Params.atReset.lastTsReset
        lastWord := Params.atReset.lastWordReset }
    script := []
    baPorts := Vector.replicate 4 .quiet
    suPorts := .quiet
    picPorts := .quiet
    sgPort := none
    draws := 0 }

end Sys2Proof.Machine
end

