-- ==== Sys2Proof/Machine/Operands.lean ====
section
/-! DEFINITION. How every operand and every new value is formed (spec/30_encoding.md R79, spec/40_sequence_generator.md R100,
R101, spec/43_pulse_controller.md R163). Every extension is by zeros; nothing is signed. PRESUMED by the spec: the readings of
parity, shift and modular subtraction are those of its passage G1 (notes/assumptions/23.md). -/

namespace Sys2Proof.Machine

/-! ### The Sequence Generator's arithmetic -/

/-- The exclusive-or of the low `n` bits of `v`. -/
def parityBelow {w : Nat} (v : BitVec w) : Nat → Bool
  | 0 => false
  | n + 1 => v.getLsbD n ^^ parityBelow v n

/-- `parity(v)`: "1 when the number of 1 bits is odd, 0 when it is even" (R100). -/
def parity {w : Nat} (v : BitVec w) : Bool := parityBelow v w

/-- `adv(p, s) = trunc_17((s << 1) | parity(s & p))` (R101). -/
def adv (p s : Word) : Word := (s <<< 1) ||| BitVec.zeroExtend 17 (BitVec.ofBool (parity (s &&& p)))

/-- `adv^n(p, s)` (R16). -/
def advN (p : Word) : Nat → Word → Word
  | 0, s => s
  | n + 1, s => adv p (advN p n s)

/-! ### The Bit Accumulator -/

/-- `word = acc[16:0]` (R110). -/
def accWord (acc : Acc) : Word := acc.extractLsb' 0 17

/-- The next `acc` on an accepted offer: `trunc_18((acc << 1) | bit_in)` (R113). -/
def shiftIn (acc : Acc) (bitIn : Bool) : Acc := (acc <<< 1) ||| BitVec.zeroExtend 18 (BitVec.ofBool bitIn)

/-! ### The controller -/

/-- `delta = timestamp -_24 lastTimestamp` (R163). -/
def delta (timestamp lastTimestamp : Timestamp) : Timestamp := timestamp - lastTimestamp

/-- `predictedBudget = (delta >> 2) + 2`, "a natural number, never truncated" (R163). -/
def predictedBudget (timestamp lastTimestamp : Timestamp) : Nat :=
  ((delta timestamp lastTimestamp).toNat >>> scaleShift) + margin

/-- A number on the `CW`-bit port `tickBudget`: `trunc_CW` (R79, notes/assumptions/10.md). -/
def truncCw (p : Params) (n : Nat) : Nat := n % 2 ^ p.cw

/-- A number on the `PW_BITS`-bit port `pulseWidth` (R76, notes/assumptions/10.md). -/
def truncPw (p : Params) (n : Nat) : Nat := n % 2 ^ p.pwBits

/-- The operands the controller drives on the start port: `(lastWord, cur.beamWord, trunc_CW(predictedBudget))` (R160). -/
def startOperands (s : State) : StartRequest :=
  { startWord := s.pic.lastWord
    targetWord := s.pic.cur.beamWord
    tickBudget := truncCw s.params (predictedBudget s.pic.cur.timestamp s.pic.lastTimestamp) }

/-- `polyIndex`: `zext_6(matchedIndex)` where a match was found, else `0x3F` (R168, D22). -/
def polyIndexOf (found : Bool) (matchedIndex : CatalogIndex) : PolyIndex :=
  if found then BitVec.zeroExtend 6 matchedIndex else unident

/-- A slot's number as `matchedIndex` reports it (R136: 5 bits). -/
def indexOf (i : Slot) : CatalogIndex := BitVec.ofNat 5 i.val

/-- `out`, the record in hand with its code (R160, R77). -/
def outRecord (s : State) : IdentifiedPulse := { pulse := s.pic.cur, polyIndex := s.pic.polyIndex }

/-! ### Free values (notes/assumptions/19.md) -/

/-- A free value of `w` bits: nothing constrains it. -/
def freeBits (w : Nat) (source : Config.FreeSource) (draw : Nat) : BitVec w :=
  BitVec.ofNat w (Config.freeValue source draw)

end Sys2Proof.Machine
end

