-- ==== Sys2Proof/Machine/Flags.lean ====
section
/-! DEFINITION. The one-bit values of the CORE (spec/10_state.md R25; spec/30_encoding.md R71 to R74): each a function of
registers and inputs. The only one that is a register is `matched`. -/

namespace Sys2Proof.Machine

/-- `full = acc[17]`: the sentinel has reached the top bit (R25, R110). -/
def full (acc : Acc) : Bool := acc.getLsbD 17

/-- `busy = (su_state == Searching)` (R130). -/
def busy (su : SuRegs) : Bool := su.state == .searching

/-- `pulse_ready = (pic_state == Idle)` (R160). -/
def pulseReady (pic : PicRegs) : Bool := pic.state == .idle

/-- `out_valid = (pic_state == Emit)` (R160). -/
def outValid (pic : PicRegs) : Bool := pic.state == .emit

/-- `inWindow = (r1 < WINDOW)`, of the decremented counter (R134). -/
def inWindow (r1 : Nat) : Bool := decide (r1 < window)

/-- `outOfRange = (predictedBudget > MAXB)`, on the untruncated number (R164). -/
def outOfRange (s : State) : Bool :=
  decide (s.params.maxB < predictedBudget s.pic.cur.timestamp s.pic.lastTimestamp)

/-- `start_valid = (pic_state == PredictWindow) and (predictedBudget <= MAXB)` (R160). -/
def startValid (s : State) : Bool := s.pic.state == .predictWindow && !outOfRange s

end Sys2Proof.Machine
end

