-- ==== Sys2Proof/Machine/Ops.lean ====
section
/-! DEFINITION. The named operations over the registers that the meanings share: writing one block's registers and ports, the
accumulator's two elementary moves, the 32 lock-step slots, the tick of a search, the Emit latch, and the degrade path, which
is what this hardware has in place of taking an exception (spec/60_exceptions.md R200). -/

namespace Sys2Proof.Machine

/-! ### Writing one part of the state -/

/-- Write the accumulator of one line. -/
def State.setAcc (s : State) (line : Line) (acc : Acc) : State := { s with accs := s.accs.set line acc }

/-- Show values on the output ports of one line's accumulator. -/
def State.setBaPorts (s : State) (line : Line) (ports : BaPorts) : State :=
  { s with baPorts := s.baPorts.set line ports }

/-- Write the Search Unit's registers. -/
def State.setSu (s : State) (su : SuRegs) : State := { s with su := su }

/-- Show values on the Search Unit's output ports. -/
def State.setSuPorts (s : State) (ports : SuPorts) : State := { s with suPorts := ports }

/-- Write the controller's registers. -/
def State.setPic (s : State) (pic : PicRegs) : State := { s with pic := pic }

/-- Show values on the controller's output ports. -/
def State.setPicPorts (s : State) (ports : PicPorts) : State := { s with picPorts := ports }

/-- Hold what `SG.VALUE` returned. -/
def State.setSgPort (s : State) (value : Option Word) : State := { s with sgPort := value }

/-- Count one more draw of free values. -/
def State.nextDraw (s : State) : State := { s with draws := s.draws + 1 }

/-- Go on to the next tick of the script; past its end nothing changes (R82). -/
def State.popScript (s : State) : State := { s with script := s.script.tail }

/-- Present `t` in the next tick, before the rest of the script. -/
def State.pushTick (s : State) (t : TickInputs) : State := { s with script := t :: s.script }

/-! ### The Bit Accumulator (spec/41_bit_accumulator.md) -/

/-- What an accumulator operation does to its register and shows on its acknowledge ports. -/
structure BaEffect where
  acc : Acc
  accepted : Bool
  taken : Option Word
deriving DecidableEq, Repr

/-- Keep the register; answer nothing (R112). -/
def baKeep (acc : Acc) : BaEffect := { acc := acc, accepted := false, taken := none }

/-- Offer one bit: shifted in unless full (R113). -/
def baShift (bitIn : Bool) (acc : Acc) : BaEffect :=
  if full acc then baKeep acc else { acc := shiftIn acc bitIn, accepted := true, taken := none }

/-- Take the word if there is one, which empties the register (R114). -/
def baTakeIfFull (acc : Acc) : BaEffect :=
  if full acc then { acc := emptyAcc, accepted := false, taken := some (accWord acc) } else baKeep acc

/-- Run an accumulator operation on one line: its effect on the register, and all the line's output ports, which are functions
of the pre-state but for `accepted` and the take result (R110). A line the machine does not have is refused
(notes/assumptions/14.md). -/
def onLine (line : Line) (effect : Acc → BaEffect) (s : State) : Host.Outcome State Fault Refusal :=
  if s.params.hasLine line then
    let acc := s.accs[line]
    let e := effect acc
    .next ((s.setAcc line e.acc).setBaPorts line
      { accepted := e.accepted, wordValid := full acc, word := accWord acc, taken := e.taken })
  else .refused .noSuchLine

/-! ### The slots (spec/40_sequence_generator.md) -/

/-- `slot[i]'` written. -/
def State.setSlot (s : State) (i : Slot) (w : Word) : State := s.setSu { s.su with slots := s.su.slots.set i w }

/-- `SG.RESET(startWord)` in every slot (R132). -/
def seedSlots (w : Word) : Vector Word 32 := Vector.replicate 32 w

/-- `SG.ADVANCE` in every slot, slot `i` with catalog entry `i` (R133, R205). -/
def advanceSlots (slots : Vector Word 32) : Vector Word 32 := Vector.ofFn fun (i : Fin 32) => adv (catRead i) slots[i]

/-- `min(hits)`: the lowest slot that holds `target`, if any (R136). -/
def lowestHit (slots : Vector Word 32) (target : Word) : Option Slot :=
  (List.finRange 32).find? fun (i : Fin 32) => slots[i] == target

/-! ### The Search Unit (spec/42_search_unit.md) -/

/-- The Search Unit's output ports: functions of the pre-state but for `start_accepted` (R130). -/
def suPortsOf (su : SuRegs) (startAccepted : Bool) : SuPorts :=
  { startAccepted := startAccepted, busy := busy su, found := su.matched, matchedIndex := su.matchedIndex }

/-- The three outcomes of a tick of an episode (R133). -/
inductive SearchOutcome where
  /-- CONTINUE (R135). -/
  | continued
  /-- MATCH by the lowest slot that hits (R136). -/
  | matchedBy (i : Slot)
  /-- TIMEOUT (R137). -/
  | timedOut
deriving DecidableEq, Repr

/-- Which outcome a tick has, from the decremented counter and the advanced slots: the comparison is made in the window only,
and a match beats the exhaustion of the budget (R133, R134, R136). -/
def searchOutcome (r1 : Nat) (advanced : Vector Word 32) (target : Word) : SearchOutcome :=
  match (if inWindow r1 then lowestHit advanced target else none) with
  | some i => .matchedBy i
  | none => if r1 = 0 then .timedOut else .continued

/-- The decremented counter, `r1 = r - 1`. R139 says that `r` is at least 1; where it is not, the result is a free value of the
counter's range (notes/assumptions/9.md; DESIGN CHOICE). -/
def tickDown (s : State) : Nat :=
  if s.su.ticksRemaining = 0 then truncCw s.params (Config.freeValue .ticksBelowOne s.draws)
  else s.su.ticksRemaining - 1

/-- What an outcome does to `matched`, `matchedIndex` and `su_state` (R135 to R137). `matchedIndex` is unspecified after a
timeout: a free value (notes/assumptions/8.md). -/
def settle (outcome : SearchOutcome) (draw : Nat) (su : SuRegs) : SuRegs :=
  match outcome with
  | .continued => su
  | .matchedBy i => { su with matched := true, matchedIndex := indexOf i, state := .idle }
  | .timedOut => { su with matched := false, matchedIndex := freeBits 5 .matchedIndex draw, state := .idle }

/-- One tick of an episode (R133): advance every slot, decrement, compare the advanced values in the window, settle. -/
def searchTick (s : State) : State :=
  let r1 := tickDown s
  let advanced := advanceSlots s.su.slots
  let su := { s.su with slots := advanced, ticksRemaining := r1 }
  ((s.setSu (settle (searchOutcome r1 advanced s.su.target) s.draws su)).setSuPorts (suPortsOf s.su false)).nextDraw

/-- An accepted start (R132): everything written together. `matchedIndex` is unspecified from here until a match (D13, U4): a
free value (notes/assumptions/8.md). -/
def beginEpisode (request : StartRequest) (s : State) : State :=
  let budget := truncCw s.params request.tickBudget
  ((s.setSu
      { state := .searching
        slots := seedSlots request.startWord
        target := request.targetWord
        ticksRemaining := budget
        matched := false
        matchedIndex := freeBits 5 .matchedIndex s.draws
        epStart := request.startWord
        epBudget := budget }).setSuPorts (suPortsOf s.su true)).nextDraw

/-! ### The controller (spec/43_pulse_controller.md) -/

/-- The controller's output ports (R160), with the record consumed and the record emitted in the tick. -/
def picPortsOf (s : State) (consumed : Option PulseRecord) (emitted : Option IdentifiedPulse) : PicPorts :=
  { pulseReady := pulseReady s.pic
    outValid := outValid s.pic
    out := if outValid s.pic then some (outRecord s) else none
    start := if startValid s then some (startOperands s) else none
    consumed := consumed
    emitted := emitted }

/-- The Emit latch, in every tick spent in Emit (R170). -/
def emitLatch (pic : PicRegs) : PicRegs :=
  { pic with lastTimestamp := pic.cur.timestamp, lastWord := pic.cur.beamWord }

/-- THE DEGRADE PATH, the nearest thing to taking an exception (R200): no state is saved, no mode changes; the controller goes to
Emit with the code `0x3F` and carries on as after a success. -/
def degrade (pic : PicRegs) : PicRegs := { pic with polyIndex := unident, state := .emit }

end Sys2Proof.Machine
end

