-- ==== Sys2Proof/Machine/BitAccumulator.lean ====
section
/-! DEFINITION. The operations of one Bit Accumulator (spec/41_bit_accumulator.md R112 to R116). -/

namespace Sys2Proof.Machine

/-- `BA.HOLD` (R112): the register is kept for any number of ticks. -/
def execBaHold (line : Line) (s : State) : Host.Outcome State Fault Refusal := onLine line baKeep s

/-- `BA.OFFER` (R113): the bit is shifted in unless the accumulator is full. -/
def execBaOffer (line : Line) (bitIn : Bool) (s : State) : Host.Outcome State Fault Refusal :=
  onLine line (baShift bitIn) s

/-- `BA.TAKE` (R114): a full word is returned once and the register emptied. -/
def execBaTake (line : Line) (s : State) : Host.Outcome State Fault Refusal := onLine line baTakeIfFull s

/-- `BA.TAKE_OFFER` (R115): both strobes are judged on the pre-state, so exactly one of them has effect. -/
def execBaTakeOffer (line : Line) (bitIn : Bool) (s : State) : Host.Outcome State Fault Refusal :=
  onLine line (fun acc => if full acc then baTakeIfFull acc else baShift bitIn acc) s

/-- `BA.RESET` (R116): the register is emptied, a bit offered in the same tick is rejected, and a take in the same tick still
returns a completed word. -/
def execBaReset (line : Line) (take : Bool) (s : State) : Host.Outcome State Fault Refusal :=
  onLine line
    (fun acc => { acc := emptyAcc, accepted := false, taken := if take && full acc then some (accWord acc) else none }) s

end Sys2Proof.Machine
end

