-- ==== Sys2Proof/Machine/CoreReset.lean ====
section
/-! DEFINITION. The global reset, `CORE.RESET` (spec/70_reset_and_hazards.md R220; spec/10_state.md R34). -/

namespace Sys2Proof.Machine

/-- The Search Unit after reset: Idle with `matched` = 0; every other register "unspecified (any value)" (R34): free values
(notes/assumptions/7.md). -/
def resetSu (p : Params) (draw : Nat) : SuRegs :=
  { state := .idle
    slots := Vector.ofFn fun (i : Fin 32) => freeBits 17 (.slot i) draw
    target := freeBits 17 .target draw
    ticksRemaining := truncCw p (Config.freeValue .ticksRemaining draw)
    matched := false
    matchedIndex := freeBits 5 .matchedIndex draw
    epStart := freeBits 17 .epStart draw
    epBudget := truncCw p (Config.freeValue .epBudget draw) }

/-- The controller after reset: Idle, with the two parameters in the latches; `cur` and `polyIndex` "unspecified (any value)"
(R34): free values (notes/assumptions/7.md). -/
def resetPic (p : Params) (draw : Nat) : PicRegs :=
  { state := .idle
    cur :=
      { sensorId := freeBits 2 .curSensorId draw
        timestamp := freeBits 24 .curTimestamp draw
        pulseWidth := truncPw p (Config.freeValue .curPulseWidth draw)
        beamWord := freeBits 17 .curBeamWord draw }
    polyIndex := freeBits 6 .polyIndex draw
    lastTimestamp := p.lastTsReset
    lastWord := p.lastWordReset }

/-- An accumulator's ports in a reset tick: `accepted` = 0 and no word taken; `word_valid` and `word` are functions of the
pre-state (R110, R220; notes/assumptions/20.md). -/
def resetBaPorts (acc : Acc) : BaPorts :=
  { accepted := false, wordValid := full acc, word := accWord acc, taken := none }

/-- `CORE.RESET` (R220): it replaces the operation of every block in its tick. -/
def execCoreReset (s : State) : Host.Outcome State Fault Refusal :=
  .next
    { params := s.params
      accs := Vector.replicate 4 emptyAcc
      su := resetSu s.params s.draws
      pic := resetPic s.params s.draws
      script := s.script
      baPorts := Vector.ofFn fun (i : Fin 4) => resetBaPorts s.accs[i]
      suPorts := suPortsOf s.su false
      picPorts := .quiet
      sgPort := s.sgPort
      draws := s.draws + 1 }

end Sys2Proof.Machine
end

