-- ==== Sys2Proof/Machine/PulseController.lean ====
section
/-! DEFINITION. The operations of the Pulse Identification Controller (spec/43_pulse_controller.md R161 to R171). -/

namespace Sys2Proof.Machine

/-- `PIC.WAIT_PULSE` (R161): all registers unchanged. -/
def execPicWaitPulse (s : State) : Host.Outcome State Fault Refusal := .next (s.setPicPorts (picPortsOf s none none))

/-- `PIC.ACCEPT` (R162): the record is consumed; nothing in it is checked, `beamWord` = 0 included (R172). -/
def execPicAccept (pulse : PulseRecord) (s : State) : Host.Outcome State Fault Refusal :=
  let taken := { pulse with pulseWidth := truncPw s.params pulse.pulseWidth }
  .next ((s.setPic { s.pic with cur := taken, state := .predictWindow }).setPicPorts (picPortsOf s (some taken) none))

/-- `PIC.PREDICT` (R163 to R166): SKIP where the budget is out of range, else START. The start request itself is on the
controller's ports in this tick, where the Search Unit reads it. -/
def execPicPredict (s : State) : Host.Outcome State Fault Refusal :=
  .next ((s.setPic (if outOfRange s then degrade s.pic else { s.pic with state := .searching })).setPicPorts
    (picPortsOf s none none))

/-- `PIC.WAIT_SEARCH` (R167): all registers unchanged. -/
def execPicWaitSearch (s : State) : Host.Outcome State Fault Refusal := .next (s.setPicPorts (picPortsOf s none none))

/-- `PIC.COLLECT` (R168): the code of the match, or the degrade path on a timeout. -/
def execPicCollect (found : Bool) (matchedIndex : CatalogIndex) (s : State) : Host.Outcome State Fault Refusal :=
  .next ((s.setPic (if found then { s.pic with polyIndex := polyIndexOf found matchedIndex, state := .emit }
      else degrade s.pic)).setPicPorts (picPortsOf s none none))

/-- `PIC.HOLD_EMIT` (R169, R170): the latch; the record is held until the sink accepts it. -/
def execPicHoldEmit (s : State) : Host.Outcome State Fault Refusal :=
  .next ((s.setPic (emitLatch s.pic)).setPicPorts (picPortsOf s none none))

/-- `PIC.EMIT` (R170, R171): the latch; the sink takes the record and the controller returns to Idle. -/
def execPicEmit (s : State) : Host.Outcome State Fault Refusal :=
  .next ((s.setPic { emitLatch s.pic with state := .idle }).setPicPorts (picPortsOf s none (some (outRecord s))))

end Sys2Proof.Machine
end

