-- ==== Sys2Proof/Machine/SearchUnit.lean ====
section
/-! DEFINITION. The operations of the Polynomial Search Unit (spec/42_search_unit.md R131 to R138). -/

namespace Sys2Proof.Machine

/-- `SU.HOLD` (R131): every register unchanged. -/
def execSuHold (s : State) : Host.Outcome State Fault Refusal := .next (s.setSuPorts (suPortsOf s.su false))

/-- `SU.START` (R132). A request whose budget on the `CW`-bit port is 0 is refused: "a model refuses a start with
`tickBudget = 0`" (R144, notes/assumptions/10.md). -/
def execSuStart (request : StartRequest) (s : State) : Host.Outcome State Fault Refusal :=
  if truncCw s.params request.tickBudget = 0 then .refused .zeroBudget else .next (beginEpisode request s)

/-- `SU.STEP` (R133 to R137). -/
def execSuStep (s : State) : Host.Outcome State Fault Refusal := .next (searchTick s)

/-- `SU.STEP_REJECT` (R138): `start_accepted = 0`, the request is forgotten, and the step of the running episode is made. -/
def execSuStepReject (s : State) : Host.Outcome State Fault Refusal := .next (searchTick s)

end Sys2Proof.Machine
end

