-- ==== Sys2Proof/Machine/SequenceGenerator.lean ====
section
/-! DEFINITION. The operations of one Sequence Generator, the LFSR of one slot (spec/40_sequence_generator.md R101 to R104). In
the CORE they are driven by the Search Unit, in all 32 slots at once; `Machine/Ops.lean` has that form (`seedSlots`,
`advanceSlots`). -/

namespace Sys2Proof.Machine

/-- `SG.RESET` (R102): `slot[i]' <- seed`; any seed is legal, 0 included. -/
def execSgReset (slot : Slot) (seed : Word) (s : State) : Host.Outcome State Fault Refusal :=
  .next (s.setSlot slot seed)

/-- `SG.ADVANCE` (R101): `slot[i]' <- adv(CatRead(i), slot[i])`. -/
def execSgAdvance (slot : Slot) (s : State) : Host.Outcome State Fault Refusal :=
  .next (s.setSlot slot (adv (catRead slot) s.su.slots[slot]))

/-- `SG.HOLD` (R104): `slot[i]' <- slot[i]`. -/
def execSgHold (slot : Slot) (s : State) : Host.Outcome State Fault Refusal :=
  .next (s.setSlot slot s.su.slots[slot])

/-- `SG.VALUE` (R103): the read returns the pre-state value; no register changes (notes/assumptions/21.md). -/
def execSgValue (slot : Slot) (s : State) : Host.Outcome State Fault Refusal :=
  .next (s.setSgPort (some s.su.slots[slot]))

end Sys2Proof.Machine
end

