-- ==== Sys2Proof/Machine/Dispatch.lean ====
section
/-! DEFINITION. One arm per operation, each a direct call of its meaning. An arm gives the operation its effect in every state;
which operation a block performs in a tick is decided by its vector (R70, notes/assumptions/2.md). -/

namespace Sys2Proof.Machine

def exec (i : Instr) (s : State) : Host.Outcome State Fault Refusal :=
  match i with
  | .coreReset => Sys2Proof.Machine.execCoreReset s
  | .baReset line take _ _ => Sys2Proof.Machine.execBaReset line take s
  | .baTakeOffer line bitIn => Sys2Proof.Machine.execBaTakeOffer line bitIn s
  | .baTake line _ => Sys2Proof.Machine.execBaTake line s
  | .baOffer line bitIn => Sys2Proof.Machine.execBaOffer line bitIn s
  | .baHold line _ => Sys2Proof.Machine.execBaHold line s
  | .sgReset slot _ seed => Sys2Proof.Machine.execSgReset slot seed s
  | .sgAdvance slot => Sys2Proof.Machine.execSgAdvance slot s
  | .sgHold slot => Sys2Proof.Machine.execSgHold slot s
  | .sgValue slot _ _ => Sys2Proof.Machine.execSgValue slot s
  | .suHold => Sys2Proof.Machine.execSuHold s
  | .suStart request => Sys2Proof.Machine.execSuStart request s
  | .suStep => Sys2Proof.Machine.execSuStep s
  | .suStepReject _ => Sys2Proof.Machine.execSuStepReject s
  | .picWaitPulse _ _ => Sys2Proof.Machine.execPicWaitPulse s
  | .picAccept _ _ pulse => Sys2Proof.Machine.execPicAccept pulse s
  | .picPredict _ _ _ => Sys2Proof.Machine.execPicPredict s
  | .picWaitSearch _ _ => Sys2Proof.Machine.execPicWaitSearch s
  | .picCollect _ _ found matchedIndex => Sys2Proof.Machine.execPicCollect found matchedIndex s
  | .picHoldEmit _ _ => Sys2Proof.Machine.execPicHoldEmit s
  | .picEmit _ _ => Sys2Proof.Machine.execPicEmit s

end Sys2Proof.Machine
end

