-- ==== Sys2Proof/Machine/Fetch.lean ====
section
/-! DEFINITION. What each block is given in a tick (spec/30_encoding.md R70 to R75): its control vector, made of the inputs
presented and of its own state bits, and its operands, all read from the pre-state (R13). And the reverse: a state in which
the next tick gives a block a stated vector. -/

namespace Sys2Proof.Machine

/-- The inputs of this tick; past the end of the script every control input is 0 (R82). -/
def fetchTick (s : State) : TickInputs :=
  match s.script with
  | [] => TickInputs.idle
  | t :: _ => t

/-- The lines that have an accumulator (R20). -/
def linesOf (p : Params) : List Line := (List.finRange 4).filter fun line => p.hasLine line

/-- The start request on the Search Unit's port: the controller's, where it makes one (R160), or that of a second requester.
Where both make one in the same tick, a free value says which the port carries (U10; notes/assumptions/11.md). -/
def startPort (s : State) (t : TickInputs) : Option StartRequest :=
  match (if startValid s then some (startOperands s) else none), t.start with
  | some own, some other => some (if Config.freeValue .startContention s.draws = 0 then own else other)
  | some own, none => some own
  | none, other => other

/-- `c = {env_end, take, bit_valid, bit_in}` of one line (R71). -/
def baEncoded (t : TickInputs) (line : Line) : Encoded :=
  let ins := t.ba[line]
  ⟨.ba line, vectorOf [ins.envEnd, ins.take, ins.bitValid, ins.bitIn], .zero⟩

/-- `u = {su_state, start_valid}` with the request as operand (R73). -/
def suEncoded (s : State) (t : TickInputs) : Encoded :=
  let request := startPort s t
  ⟨.su, vectorOf [busy s.su, request.isSome], { Operands.zero with request := request.getD Operands.zero.request }⟩

/-- `g = {load, step}` of one slot (R72): `load` in the tick a start is accepted, `step` in every Searching tick. -/
def sgEncoded (s : State) (t : TickInputs) (slot : Slot) : Encoded :=
  let request := startPort s t
  ⟨.sg slot, vectorOf [request.isSome && !busy s.su, busy s.su],
    { Operands.zero with seed := (request.getD Operands.zero.request).startWord }⟩

/-- The two bits of `pic_state`, the more significant first (R24). -/
def picCode : PicState → Bool × Bool
  | .idle => (false, false)
  | .predictWindow => (false, true)
  | .searching => (true, false)
  | .emit => (true, true)

/-- `p = {pic_state[1:0], pulse_valid, sink_ready, busy}` with the record offered and the Search Unit's result as operands
(R74). -/
def picEncoded (s : State) (t : TickInputs) : Encoded :=
  ⟨.pic, vectorOf [(picCode s.pic.state).1, (picCode s.pic.state).2, t.pulse.isSome, t.sinkReady, busy s.su],
    { Operands.zero with
      pulse := t.pulse.getD Operands.zero.pulse, found := s.su.matched, matchedIndex := s.su.matchedIndex }⟩

/-- Everything the blocks are given in a tick. `rst` = 1 replaces the operation of every block by `CORE.RESET` (R75). The slots'
own vectors are not listed: they belong to the Search Unit's operation (R72). -/
def tickEncoded (s : State) (t : TickInputs) : List Encoded :=
  if t.rst then [⟨.core, vectorOf [t.rst], .zero⟩]
  else (linesOf s.params).map (baEncoded t) ++ [suEncoded s t, picEncoded s t]

/-! ### Placing a vector where the next tick finds it (notes/assumptions/13.md) -/

/-- The `pic_state` with these two bits (R24). -/
def picStateOf : Bool → Bool → PicState
  | false, false => .idle
  | false, true => .predictWindow
  | true, false => .searching
  | true, true => .emit

/-- The `su_state` with this bit (R23). -/
def suStateOf (b : Bool) : SuState := if b then .searching else .idle

/-- Give the Search Unit the vector `{busy, start}` in the next tick: its state bit is set, the controller is put in Idle so that
it drives nothing on the start port, and the request, if any, is presented. -/
def placeSu (s : State) (busyBit : Bool) (request : Option StartRequest) : State :=
  ((s.setSu { s.su with state := suStateOf busyBit }).setPic { s.pic with state := .idle }).pushTick
    { TickInputs.idle with start := request }

/-- `s` with a block's vector and operands standing where the next tick reads them: the inputs at the head of the script, the
bits of the vector that are state bits in their registers. A slot's vector is driven by the Search Unit (R72), so its
operation comes about in a tick of the Search Unit. -/
def placeEncoded (e : Encoded) (s : State) : State :=
  let bit := fun n => e.vector.getLsbD n
  match e.block with
  | .core => s.pushTick { TickInputs.idle with rst := bit 0 }
  | .ba line =>
      s.pushTick { TickInputs.idle with
        ba := TickInputs.idle.ba.set line { envEnd := bit 3, take := bit 2, bitValid := bit 1, bitIn := bit 0 } }
  | .sg _ =>
      if bit 1 then placeSu s false (some { Operands.zero.request with startWord := e.operands.seed, tickBudget := 1 })
      else placeSu s (bit 0) none
  | .sgr _ => s.pushTick TickInputs.idle
  | .su => placeSu s (bit 1) (if bit 0 then some e.operands.request else none)
  | .pic =>
      ((s.setSu { s.su with
          state := suStateOf (bit 0), matched := e.operands.found, matchedIndex := e.operands.matchedIndex }).setPic
        { s.pic with state := picStateOf (bit 4) (bit 3) }).pushTick
        { TickInputs.idle with pulse := if bit 2 then some e.operands.pulse else none, sinkReady := bit 1 }

end Sys2Proof.Machine
end

