-- ==== Sys2Proof/Machine/Tick.lean ====
section
/-! DEFINITION. One tick of the CORE (spec/00_scope.md R12, R13): every block's vector is formed and decoded from the
pre-state, and then the selected operations take effect. An operation writes its own block's registers and reads, beside its
operands, no other block's, so the order in which the effects are written down is of no consequence
(notes/assumptions/1.md). -/

namespace Sys2Proof.Machine

/-- The operations selected by a list of vectors; the first that selects none gives its reason. -/
def decodeAll : List Encoded → Except DecodeError (List Instr)
  | [] => .ok []
  | e :: rest =>
      match decode e with
      | .error reason => .error reason
      | .ok i =>
          match decodeAll rest with
          | .error reason => .error reason
          | .ok is => .ok (i :: is)

/-- The effects of a list of operations, stopping at the first that has none: a refused start refuses the whole tick
(notes/assumptions/18.md). -/
def runOps : List Instr → State → Host.Outcome State Fault Refusal
  | [], s => .next s
  | i :: rest, s =>
      match exec i s with
      | .next t => runOps rest t
      | .fault r => .fault r
      | .refused r => .refused r

/-- The operations of this tick, one for each block (R70). -/
def tickOps (s : State) : Except DecodeError (List Instr) := decodeAll (tickEncoded s (fetchTick s))

/-- One tick: the selected operations on the pre-state, and on to the next entry of the script. -/
def tick (s : State) : Host.Outcome State Fault Refusal :=
  match tickOps s with
  | .error reason => .refused (.undecodable reason)
  | .ok is =>
      match runOps is s with
      | .next t => .next t.popScript
      | .fault r => .fault r
      | .refused r => .refused r

end Sys2Proof.Machine
end

