-- ==== Sys2Proof/Machine/Step.lean ====
section
/-! DEFINITION. The step of the machine, one tick (spec/00_scope.md R12), and the state in which the next step runs a given
table word. -/

namespace Sys2Proof.Machine

/-- One step: one tick of the CORE. No time passes but ticks (notes/assumptions/22.md). -/
def step (s : State) : Host.Outcome State Fault Refusal := tick s

/-- `s` with the control vector `w` of `nbits` bits, all operands 0, standing where the next step reads it
(notes/assumptions/12.md, notes/assumptions/13.md). -/
def State.withFetchWord (s : State) (nbits w : Nat) : State :=
  match tableEncoded nbits w with
  | some e => placeEncoded e s
  | none => s

end Sys2Proof.Machine
end

