-- ==== Sys2Proof/Machine/Stimulus.lean ====
section
/-! DEFINITION. The stimulus notation (spec/30_encoding.md R82, R83): each line of a stimulus sets the inputs of one block in
one tick, and each pseudo-operation expands to ticks. A script is a list of such ticks. -/

namespace Sys2Proof.Machine

/-- The inputs of one line's accumulator in a tick. -/
def TickInputs.withBa (t : TickInputs) (line : Line) (ins : BaInputs) : TickInputs := { t with ba := t.ba.set line ins }

/-- `BA<s> OFFER <bit>`. -/
def TickInputs.baOffer (line : Line) (b : Bool) (t : TickInputs) : TickInputs :=
  t.withBa line { BaInputs.idle with bitValid := true, bitIn := b }

/-- `BA<s> TAKE`. -/
def TickInputs.baTake (line : Line) (t : TickInputs) : TickInputs := t.withBa line { BaInputs.idle with take := true }

/-- `BA<s> TAKE_OFFER <bit>`. -/
def TickInputs.baTakeOffer (line : Line) (b : Bool) (t : TickInputs) : TickInputs :=
  t.withBa line { envEnd := false, take := true, bitValid := true, bitIn := b }

/-- `BA<s> RESET`, which asserts `env_end`. -/
def TickInputs.baReset (line : Line) (t : TickInputs) : TickInputs := t.withBa line { BaInputs.idle with envEnd := true }

/-- `SU START <startWord> <targetWord> <tickBudget>`, for the Search Unit on its own. -/
def TickInputs.suStart (startWord targetWord : Word) (tickBudget : Nat) (t : TickInputs) : TickInputs :=
  { t with start := some { startWord := startWord, targetWord := targetWord, tickBudget := tickBudget } }

/-- `PIC PULSE <record>`, which asserts `pulse_valid`. -/
def TickInputs.picPulse (pulse : PulseRecord) (t : TickInputs) : TickInputs := { t with pulse := some pulse }

/-- `PIC SINK`, which asserts `sink_ready`. -/
def TickInputs.picSink (t : TickInputs) : TickInputs := { t with sinkReady := true }

/-- `CORE RST`. -/
def TickInputs.coreRst (t : TickInputs) : TickInputs := { t with rst := true }

/-- `BA<s> OFFERWORD <w>`: 17 ticks, "most significant bit first" (R83, R57). -/
def offerWord (line : Line) (w : Word) : List TickInputs :=
  (List.range 17).map fun j => TickInputs.idle.baOffer line (w.getLsbD (16 - j))

/-- `PIC PULSE_HOLD <record>` over ticks already scripted: the record is presented in each of the first `n` of them
(R83, R228). How many that is depends on the run, so the writer of the script says it (notes/assumptions/24.md). -/
def pulseHold (pulse : PulseRecord) (n : Nat) (ticks : List TickInputs) : List TickInputs :=
  (ticks.take n).map (TickInputs.picPulse pulse) ++ ticks.drop n

/-- `SINK ALWAYS`: `PIC SINK` in every tick. -/
def sinkAlways (ticks : List TickInputs) : List TickInputs := ticks.map TickInputs.picSink

/-- `IDLE <n>`: no line for `n` ticks. -/
def idleTicks (n : Nat) : List TickInputs := List.replicate n TickInputs.idle

end Sys2Proof.Machine
end

