-- ==== Sys2Proof/Machine/Episode.lean ====
section
/-! DEFINITION. The two whole-run functions of the spec: a search from its start request to its result
(spec/42_search_unit.md R140) and the code of one pulse (spec/43_pulse_controller.md R175). They say in closed form what the
tick rules do; the machine's step does not use them. -/

namespace Sys2Proof.Machine

/-- `min(H(n))`: the lowest slot that holds `target` after `n` advances from `startWord` (R140). -/
def hitAfter (startWord target : Word) (n : Nat) : Option Slot :=
  (List.finRange 32).find? fun (i : Fin 32) => advN (catRead i) n startWord == target

/-- The least of the `count` offsets from `n` on at which some slot hits, with the lowest slot that does. -/
def firstHit (startWord target : Word) : Nat → Nat → Option (Nat × Slot)
  | _, 0 => none
  | n, count + 1 =>
      match hitAfter startWord target n with
      | some i => some (n, i)
      | none => firstHit startWord target (n + 1) count

/-- `lo = max(1, B - WINDOW + 1)`: the first offset tested (R134, R140). -/
def firstOffset (budget : Nat) : Nat := max 1 (budget + 1 - window)

/-- The result of an episode: the slot found, if any, and the number of Searching ticks it lasts (R140, R141). -/
structure EpisodeResult where
  found : Option Slot
  ticks : Nat
deriving DecidableEq, Repr

/-- The whole-episode function of R140, for a budget of `1 .. MAXB`. -/
def episode (startWord target : Word) (budget : Nat) : EpisodeResult :=
  match firstHit startWord target (firstOffset budget) (budget + 1 - firstOffset budget) with
  | some (n, i) => { found := some i, ticks := n }
  | none => { found := none, ticks := budget }

/-- The code of a pulse accepted when the latches hold `(lastTimestamp, lastWord)` (R175). -/
def identify (p : Params) (lastTimestamp : Timestamp) (lastWord : Word) (pulse : PulseRecord) : PolyIndex :=
  let budget := predictedBudget pulse.timestamp lastTimestamp
  if p.maxB < budget then unident
  else
    match (episode lastWord pulse.beamWord budget).found with
    | some i => polyIndexOf true (indexOf i)
    | none => unident

/-- The ticks from `PIC.ACCEPT` to the first tick spent in Emit (R234): 2 for a skipped pulse, `L + 3` for a searched one. -/
def ticksToEmit (p : Params) (lastTimestamp : Timestamp) (lastWord : Word) (pulse : PulseRecord) : Nat :=
  let budget := predictedBudget pulse.timestamp lastTimestamp
  if p.maxB < budget then 2 else (episode lastWord pulse.beamWord budget).ticks + 3

end Sys2Proof.Machine
end

