-- ==== Sys2Proof/Safety.lean ====
section
/-! DEFINITION. What claims about the CORE speak of: what one operation leaves unchanged, the invariants of the state
(spec/10_state.md R27, R33, spec/42_search_unit.md R139, spec/20_memory.md R54), and what the environment is expected to respect
(spec/70_reset_and_hazards.md R225 to R231), which is never built into the machine. -/

namespace Sys2Proof.Machine

/-! ### Frames: `t` differs from `s` in one part only -/

/-- Nothing but the accumulator and the ports of `line` may differ. -/
def OnlyLine (line : Line) (s t : State) : Prop :=
  t.params = s.params ∧ t.su = s.su ∧ t.pic = s.pic ∧ t.script = s.script ∧ t.suPorts = s.suPorts ∧
    t.picPorts = s.picPorts ∧ t.sgPort = s.sgPort ∧ t.draws = s.draws ∧
    ∀ other : Line, other ≠ line → t.accs[other] = s.accs[other] ∧ t.baPorts[other] = s.baPorts[other]

/-- Nothing but `slot[slot]` may differ. -/
def OnlySlot (slot : Slot) (s t : State) : Prop :=
  t = { s with su := { s.su with slots := t.su.slots } } ∧
    ∀ other : Slot, other ≠ slot → t.su.slots[other] = s.su.slots[other]

/-- Nothing but the Search Unit's registers and ports and the counter of draws may differ. -/
def OnlySu (s t : State) : Prop :=
  t.params = s.params ∧ t.accs = s.accs ∧ t.pic = s.pic ∧ t.script = s.script ∧ t.baPorts = s.baPorts ∧
    t.picPorts = s.picPorts ∧ t.sgPort = s.sgPort

/-- Nothing but the controller's registers and ports may differ. -/
def OnlyPic (s t : State) : Prop :=
  t.params = s.params ∧ t.accs = s.accs ∧ t.su = s.su ∧ t.script = s.script ∧ t.baPorts = s.baPorts ∧
    t.suPorts = s.suPorts ∧ t.sgPort = s.sgPort ∧ t.draws = s.draws

/-! ### Invariants -/

/-- The sentinel is in every accumulator: `acc != 0` (R27 (a)). -/
def AccsHoldSentinel (s : State) : Prop := ∀ line : Line, s.accs[line] ≠ 0

/-- The registers of open width fit it (R28, R29). -/
def RegistersFit (s : State) : Prop :=
  s.su.ticksRemaining < 2 ^ s.params.cw ∧ s.su.epBudget < 2 ^ s.params.cw ∧ s.pic.cur.pulseWidth < 2 ^ s.params.pwBits

/-- Every slot holds what its own polynomial gives after the ticks of the episode so far (R139). -/
def SlotsFollow (s : State) : Prop :=
  ∀ i : Slot, s.su.slots[i] = advN (catRead i) (s.su.epBudget - s.su.ticksRemaining) s.su.epStart

/-- While Searching: the counter is in `1 .. MAXB` and never above the budget, nothing has matched, and every slot follows its
polynomial (R139). -/
def EpisodeRuns (s : State) : Prop :=
  s.su.state = .searching →
    1 ≤ s.su.ticksRemaining ∧ s.su.ticksRemaining ≤ s.su.epBudget ∧ s.su.epBudget ≤ s.params.maxB ∧
      s.su.matched = false ∧ SlotsFollow s

/-- While a match is reported: the unit is Idle, the match was made in the trailing window, and the reported slot is the lowest
that holds the target (R134, R136). -/
def MatchIsTrue (s : State) : Prop :=
  s.su.matched = true →
    s.su.state = .idle ∧ s.su.ticksRemaining < window ∧ s.su.ticksRemaining < s.su.epBudget ∧ SlotsFollow s ∧
      ∃ i : Slot, s.su.matchedIndex = indexOf i ∧ s.su.slots[i] = s.su.target ∧
        ∀ j : Slot, j < i → s.su.slots[j] ≠ s.su.target

/-- The Search Unit's invariant: what holds whoever drives its start port. -/
def SearchInv (s : State) : Prop := EpisodeRuns s ∧ MatchIsTrue s

/-- In the assembled CORE the start port is driven by the controller alone (R33): no second requester in the script. -/
def Assembled (s : State) : Prop := ∀ t ∈ s.script, t.start = none

/-- `su_state = Searching` implies `pic_state = Searching` (R33). -/
def SearchOwned (s : State) : Prop := s.su.state = .searching → s.pic.state = .searching

/-- While the controller is in Searching, the Search Unit's episode is the one it asked for (R166, R167). -/
def SearchIsCurrent (s : State) : Prop :=
  s.pic.state = .searching →
    s.su.target = s.pic.cur.beamWord ∧ s.su.epStart = s.pic.lastWord ∧
      s.su.epBudget = predictedBudget s.pic.cur.timestamp s.pic.lastTimestamp

/-- In Emit the code is `0x3F` or the index of the match found for this pulse's word (R54, R168). -/
def CodeIsTrue (s : State) : Prop :=
  s.pic.state = .emit →
    s.pic.polyIndex = unident ∨
      (s.su.matched = true ∧ s.pic.polyIndex = BitVec.zeroExtend 6 s.su.matchedIndex ∧
        s.su.target = s.pic.cur.beamWord)

/-- The invariant of the assembled CORE. -/
def CoreInv (s : State) : Prop :=
  Assembled s ∧ AccsHoldSentinel s ∧ RegistersFit s ∧ SearchInv s ∧ SearchOwned s ∧ SearchIsCurrent s ∧ CodeIsTrue s

/-- In Emit the code is 0 to 31 or `0x3F`: "Codes 32 to 62 are never produced by the CORE" (R54). -/
def CodeIsLegal (s : State) : Prop := s.pic.state = .emit → s.pic.polyIndex.toNat < 32 ∨ s.pic.polyIndex = unident

/-! ### A run, tick by tick: tick 0 is the next step -/

/-- The inputs presented in tick `k`; past the end of the script every control input is 0 (R82). -/
def inputsAt (s : State) (k : Nat) : TickInputs := (s.script[k]?).getD TickInputs.idle

/-- The post-states of the first `n` ticks; fewer where a tick is refused. Their port fields show what the outside saw in the
tick (R235). -/
def ticksOf : Nat → State → List State
  | 0, _ => []
  | n + 1, s =>
      match step s with
      | .next t => t :: ticksOf n t
      | .fault _ => []
      | .refused _ => []

/-- What the outputs showed in tick `k`, read by `view`; `none` where the run does not get that far. -/
def shownAt {α : Type} (s : State) (view : State → Option α) (k : Nat) : Option α :=
  ((ticksOf (k + 1) s)[k]?).bind view

/-- `accepted` of a line in tick `k`. -/
def acceptedAt (s : State) (line : Line) (k : Nat) : Bool :=
  (shownAt s (fun t => some t.baPorts[line].accepted) k).getD false

/-- The word taken of a line in tick `k`. -/
def takenAt (s : State) (line : Line) (k : Nat) : Option Word := shownAt s (fun t => t.baPorts[line].taken) k

/-- The record the controller consumed in tick `k`. -/
def consumedAt (s : State) (k : Nat) : Option PulseRecord := shownAt s (fun t => t.picPorts.consumed) k

/-- `out_valid` in tick `k`. -/
def outValidAt (s : State) (k : Nat) : Bool := (shownAt s (fun t => some t.picPorts.outValid) k).getD false

/-- `start_accepted` in tick `k`. -/
def startAcceptedAt (s : State) (k : Nat) : Bool := (shownAt s (fun t => some t.suPorts.startAccepted) k).getD false

/-- The Search Unit shows a result in tick `k`: `busy` = 0 (R141). -/
def resultShownAt (s : State) (k : Nat) : Bool := (shownAt s (fun t => some !t.suPorts.busy) k).getD false

/-! ### What the environment is expected to respect

R225: "A model should treat each duty as a named premise of a claim, not as a restriction built into the machine." What the
outside knows and the CORE does not (which ticks are one physical pulse, which record belongs to it) is data that a claim names
beside the state (notes/assumptions/27.md). -/

/-- The ticks `first .. last` of one physical pulse on one line ("Envelope", R18). -/
structure Envelope where
  first : Nat
  last : Nat
deriving DecidableEq, Repr

/-- One demodulator channel: its name, the envelopes of its physical pulses in order, and the ticks whose bit it counts as
stored. -/
structure Demodulator where
  channel : Nat
  envelopes : List Envelope
  stored : List Nat
deriving DecidableEq, Repr

/-- R226 (a): a demodulator counts a bit as stored exactly where it was accepted. That it offers at most one bit in a tick holds of
every script: `BaInputs` has room for one. -/
def CountsStoredBits (s : State) (n : Nat) (line : Line) (d : Demodulator) : Prop :=
  ∀ k, k < n → (k ∈ d.stored ↔ acceptedAt s line k = true)

/-- R226 (b): `env_end` is asserted at the end of each physical pulse, on success and on premature end alike, and nowhere else; the
pulses of a line do not overlap, so it is asserted at most once in each. -/
def EndsEachPulseOnce (s : State) (n : Nat) (line : Line) (d : Demodulator) : Prop :=
  (∀ e ∈ d.envelopes, e.first ≤ e.last) ∧ d.envelopes.Pairwise (fun a b => a.last < b.first) ∧
    ∀ k, k < n → ((inputsAt s k).ba[line].envEnd = true ↔ ∃ e ∈ d.envelopes, e.last = k)

/-- R226: the demodulators' duties over `n` ticks; (c), no channel is shared between lines. -/
def DemodulatorsRespect (s : State) (n : Nat) (demod : Line → Demodulator) : Prop :=
  (∀ a b : Line, (demod a).channel = (demod b).channel → a = b) ∧
    ∀ line : Line, CountsStoredBits s n line (demod line) ∧ EndsEachPulseOnce s n line (demod line)

/-- The word consumer takes a completed word no later than the tick in which `env_end` is asserted (R227). -/
def ConsumerTakes (s : State) (line : Line) : Prop :=
  (fetchTick s).ba[line].envEnd = true → full s.accs[line] = true → (fetchTick s).ba[line].take = true

/-- The merge layer holds a presented record unchanged until it is accepted (R228): a record presented in a tick
without `pulse_ready` (the controller not Idle, or a reset tick, R220) is presented again in the next. -/
def MergeLayerHolds (s : State) : Prop :=
  ∀ t rest pulse, s.script = t :: rest → t.pulse = some pulse → (s.pic.state ≠ .idle ∨ t.rst = true) →
    ∃ t' rest', rest = t' :: rest' ∧ t'.pulse = some pulse

/-- What the timing unit made of one envelope: the value of its counter and the record, if it produced one. -/
structure Measurement where
  line : Line
  envelope : Envelope
  count : Nat
  record : Option PulseRecord
deriving DecidableEq, Repr

/-- The words taken of a line during an envelope. DESIGN CHOICE (notes/assumptions/29.md): a word that completed and that `env_end`
destroyed untaken is not among them, so its envelope counts as one without a word. -/
def wordsIn (s : State) (line : Line) (e : Envelope) : List Word :=
  (List.range' e.first (e.last + 1 - e.first)).filterMap (takenAt s line)

/-- R229: a record bears its line, the 24-bit counter and a word of its line taken in its envelope. An envelope without a word gives
no record or one with `beamWord` = 0, and neither is assumed. DESIGN CHOICE, where the spec is silent: in an envelope with two taken
words (R119, N6) the one record bears either (notes/assumptions/28.md), and one whose word nobody took has no word
(notes/assumptions/29.md). -/
def Measurement.Right (s : State) (m : Measurement) : Prop :=
  match m.record with
  | some r =>
      r.sensorId = BitVec.ofNat 2 m.line.val ∧ r.timestamp = BitVec.ofNat 24 m.count ∧ r.wf s.params = true ∧
        (r.beamWord ∈ wordsIn s m.line m.envelope ∨ wordsIn s m.line m.envelope = [] ∧ r.beamWord = 0)
  | none => wordsIn s m.line m.envelope = []

/-- R229: the timing unit's duties over `n` ticks. Every envelope that has ended is measured, each once, and rightly; nothing but its
records is presented; and the controller gets each of them once, in the order of the measurements. DESIGN CHOICE: an envelope in which
two words are taken is still one measurement, with one record (notes/assumptions/28.md). -/
def TimingUnitRespects (s : State) (n : Nat) (demod : Line → Demodulator) (measured : List Measurement) : Prop :=
  (measured.map fun m => (m.line, m.envelope)).Nodup ∧
    (∀ line : Line, ∀ e ∈ (demod line).envelopes, e.last < n → (line, e) ∈ measured.map fun m => (m.line, m.envelope)) ∧
    (∀ m ∈ measured, m.envelope ∈ (demod m.line).envelopes ∧ m.Right s) ∧
    (∀ k, k < n → ∀ r, (inputsAt s k).pulse = some r → r ∈ measured.filterMap Measurement.record) ∧
    (List.range n).filterMap (consumedAt s) <+: measured.filterMap Measurement.record

/-- A caller of the Search Unit keeps `tickBudget >= 1` and waits for `busy` = 0 (R230). -/
def CallerWaits (s : State) : Prop :=
  ∀ request, (fetchTick s).start = some request →
    s.su.state = .idle ∧ 1 ≤ request.tickBudget ∧ request.tickBudget ≤ s.params.maxB

/-- A caller of the Search Unit that reads the result in the ticks `reads` does so between an accepted start and its next one, in a
tick that shows a result (R230). -/
def CallerReads (s : State) (n : Nat) (reads : List Nat) : Prop :=
  ∀ j, j < n → ∀ i, i < j → startAcceptedAt s i = true → startAcceptedAt s j = true →
    ∃ k ∈ reads, i < k ∧ k ≤ j ∧ resultShownAt s k = true

/-- The sink is ready in this tick. -/
def SinkReady (s : State) : Prop := (fetchTick s).sinkReady = true

/-- R231: a record shown to the sink is taken in that tick or a later one, the one fairness premise of a liveness claim. -/
def SinkEventuallyReady (s : State) : Prop :=
  ∀ k, outValidAt s k = true → ∃ j, k ≤ j ∧ outValidAt s j = true ∧ (inputsAt s j).sinkReady = true

end Sys2Proof.Machine
end

