-- ==== Sys2Proof/Certificates/Slice0/Obligations.lean ====
section
/-! DEFINITION. The statements for the provers. Each says in its docstring which rule of spec/ it formalises, or that it rests on
a choice of the model. -/

open Sys2Proof Sys2Proof.Machine

/-! ### Control vectors -/

/-- Decoding an encoded operation gives it back, with every operand and every free bit of its vector (R70 to R75). -/
def Obligations.DecodeInvertsEncode : Prop := ∀ i : Instr, decode (encode i) = .ok i

/-- No bit of a control vector is dropped: the operation decoded encodes to the same vector of the same block. -/
def Obligations.DecodeDropsNoVectorBit : Prop :=
  ∀ (e : Encoded) (i : Instr), decode e = .ok i → (encode i).block = e.block ∧ (encode i).vector = e.vector

/-- R70: every vector of a block's format selects an operation, and exactly the rows of that operation's mnemonic match it; format
G selects `CORE.RESET` on 1 (R75). That the decoder answers the named error `noGlobalOperation` for format G's 0, on which "each
block decode[s] its own vector", is the model's reading (notes/assumptions/25.md). -/
def Obligations.EveryVectorSelectsItsRow : Prop :=
  (∀ (block : Block) (v : BitVec 8) (ops : Operands), block ≠ .core → v.toNat < 2 ^ block.format.width →
    ∃ i, decode ⟨block, v, ops⟩ = .ok i ∧
      ∀ r ∈ opcodeRows, r.format = block.format → (r.selects v = true ↔ r.mnemonic = i.mnemonic)) ∧
  (∀ ops : Operands, decode ⟨.core, 1, ops⟩ = .ok .coreReset ∧ decode ⟨.core, 0, ops⟩ = .error .noGlobalOperation)

/-- Vectors written out from the tables of R71 to R75 decode to the operations they stand for. -/
def Obligations.VectorsOfTheSpecDecode : Prop :=
  decode ⟨.core, 0b1, .zero⟩ = .ok .coreReset ∧
  decode ⟨.ba 2, 0b1101, .zero⟩ = .ok (.baReset 2 true false true) ∧
  decode ⟨.ba 0, 0b0110, .zero⟩ = .ok (.baTakeOffer 0 false) ∧
  decode ⟨.sg 31, 0b01, .zero⟩ = .ok (.sgAdvance 31) ∧
  decode ⟨.su, 0b10, .zero⟩ = .ok .suStep ∧
  decode ⟨.pic, 0b10101, .zero⟩ = .ok (.picWaitSearch true false) ∧
  decode ⟨.pic, 0b11010, .zero⟩ = .ok (.picEmit false false)

/-! ### Sequence Generator -/

/-- R101 and R100: `SG.ADVANCE` writes `trunc_17((s << 1) | parity(s & p))` to its slot, the parity being 1 when the number of 1
bits is odd, and touches nothing else. -/
def Obligations.SgAdvanceShiftsInParity : Prop :=
  ∀ (slot : Slot) (s : State),
    decode ⟨.sg slot, vectorOf [false, true], .zero⟩ = .ok (.sgAdvance slot) ∧
    ∃ t, exec (.sgAdvance slot) s = .next t ∧
    (t.su.slots[slot]).toNat =
      (2 * (s.su.slots[slot]).toNat +
        ((List.range 17).countP fun k => (s.su.slots[slot] &&& catRead slot).getLsbD k) % 2) % 2 ^ 17 ∧
    OnlySlot slot s t

/-- R102: `SG.RESET` writes the seed, whatever it is, to its slot and touches nothing else. -/
def Obligations.SgResetLoadsSeed : Prop :=
  ∀ (slot : Slot) (step : Bool) (seed : Word) (s : State),
    decode ⟨.sg slot, vectorOf [true, step], { Operands.zero with seed := seed }⟩ = .ok (.sgReset slot step seed) ∧
    ∃ t, exec (.sgReset slot step seed) s = .next t ∧
    t.su.slots[slot] = seed ∧ OnlySlot slot s t

/-- R104: `SG.HOLD` changes nothing. -/
def Obligations.SgHoldKeepsSlot : Prop :=
  ∀ (slot : Slot) (s : State),
    decode ⟨.sg slot, vectorOf [false, false], .zero⟩ = .ok (.sgHold slot) ∧ exec (.sgHold slot) s = .next s

/-- `SG.VALUE` (R103) returns the slot's value and changes no register; that the result stands in the field `sgPort` is the model's
choice (notes/assumptions/21.md). -/
def Obligations.SgValueReadsSlot : Prop :=
  ∀ (slot : Slot) (load step : Bool) (s : State),
    exec (.sgValue slot load step) s = .next { s with sgPort := some s.su.slots[slot] }

/-- R105: one step is a bijection on the 17-bit states whenever bit 16 of the polynomial is 1, with the stated inverse; every
catalog entry has that bit. -/
def Obligations.AdvanceIsBijective : Prop :=
  (∀ p : Word, p.getLsbD 16 = true → Function.Bijective (adv p) ∧
    ∀ s : Word, s.extractLsb' 0 16 = (adv p s).extractLsb' 1 16 ∧
      s.getLsbD 16 =
        ((adv p s).getLsbD 0 ^^ parity ((adv p s).extractLsb' 1 16 &&& p.extractLsb' 0 16))) ∧
  (∀ i : Slot, (catRead i).getLsbD 16 = true) ∧
  (∀ (p : Word) (n : Nat), p.getLsbD 16 = true →
    (∀ s s' : Word, s ≠ s' → advN p n s ≠ advN p n s') ∧ ∀ s : Word, s ≠ 0 → advN p n s ≠ 0)

/-- R106: the all-zero state is a fixed point for every polynomial, and no slot leaves it or reaches it from elsewhere. -/
def Obligations.ZeroStateIsFixed : Prop :=
  (∀ p : Word, adv p 0 = 0) ∧
  (∀ (i : Slot) (n : Nat) (s : Word), advN (catRead i) n s = 0 ↔ s = 0)

/-- R51, and R52 (a) to (c): the catalog holds the 32 listed values in their order; its entries are distinct, have bit 16 set and an
even number of 1 bits. -/
def Obligations.CatalogEntriesAreListedDistinctAndEven : Prop :=
  (List.finRange 32).map catRead =
    [0x1D258, 0x17E04, 0x1FF6B, 0x13F67, 0x1B9EE, 0x198D1, 0x178C7, 0x18A55] ++
    [0x15777, 0x1D911, 0x15769, 0x1991F, 0x12BD0, 0x1CF73, 0x1365D, 0x197F5] ++
    [0x194A0, 0x1B279, 0x13A34, 0x1AE41, 0x180D4, 0x17891, 0x12E64, 0x17C72] ++
    [0x19C6D, 0x13F32, 0x1AE14, 0x14E76, 0x13C97, 0x130CB, 0x13750, 0x1CB8D] ∧
  (∀ i j : Slot, catRead i = catRead j → i = j) ∧
  (∀ i : Slot, (catRead i).getLsbD 16 = true ∧ parity (catRead i) = false)

/-! ### Bit Accumulator -/

/-- R112: `BA.HOLD` keeps the register and answers nothing. -/
def Obligations.BaHoldKeepsRegister : Prop :=
  ∀ (line : Line) (b : Bool) (s : State),
    decode ⟨.ba line, vectorOf [false, false, false, b], .zero⟩ = .ok (.baHold line b) ∧
    (s.params.hasLine line = true →
      ∃ t, exec (.baHold line b) s = .next t ∧ t.accs[line] = s.accs[line] ∧
      t.baPorts[line].accepted = false ∧ t.baPorts[line].taken = none ∧
      t.baPorts[line].wordValid = (s.accs[line]).getLsbD 17 ∧ t.baPorts[line].word = (s.accs[line]).extractLsb' 0 17 ∧
      OnlyLine line s t)

/-- R113: `BA.OFFER` shifts the bit in at the bottom where bit 17 is 0, losing nothing, and rejects it where bit 17 is 1. -/
def Obligations.BaOfferShiftsUnlessFull : Prop :=
  ∀ (line : Line) (b : Bool) (s : State),
    decode ⟨.ba line, vectorOf [false, false, true, b], .zero⟩ = .ok (.baOffer line b) ∧
    (s.params.hasLine line = true →
      ∃ t, exec (.baOffer line b) s = .next t ∧
      ((s.accs[line]).getLsbD 17 = false →
        (t.accs[line]).toNat = 2 * (s.accs[line]).toNat + b.toNat ∧ t.baPorts[line].accepted = true) ∧
      ((s.accs[line]).getLsbD 17 = true → t.accs[line] = s.accs[line] ∧ t.baPorts[line].accepted = false) ∧
      t.baPorts[line].taken = none ∧ t.baPorts[line].wordValid = (s.accs[line]).getLsbD 17 ∧
      t.baPorts[line].word = (s.accs[line]).extractLsb' 0 17 ∧ OnlyLine line s t)

/-- R114: `BA.TAKE` on a full register returns the word and empties it, and disturbs nothing otherwise. -/
def Obligations.BaTakeEmptiesFullRegister : Prop :=
  ∀ (line : Line) (b : Bool) (s : State),
    decode ⟨.ba line, vectorOf [false, true, false, b], .zero⟩ = .ok (.baTake line b) ∧
    (s.params.hasLine line = true →
      ∃ t, exec (.baTake line b) s = .next t ∧
      ((s.accs[line]).getLsbD 17 = true →
        t.accs[line] = 0x00001 ∧ t.baPorts[line].taken = some ((s.accs[line]).extractLsb' 0 17)) ∧
      ((s.accs[line]).getLsbD 17 = false → t.accs[line] = s.accs[line] ∧ t.baPorts[line].taken = none) ∧
      t.baPorts[line].accepted = false ∧ t.baPorts[line].wordValid = (s.accs[line]).getLsbD 17 ∧
      t.baPorts[line].word = (s.accs[line]).extractLsb' 0 17 ∧ OnlyLine line s t)

/-- R115: with both strobes, a full register gives its word and rejects the bit; otherwise the bit is accepted. -/
def Obligations.BaTakeOfferJudgesPreState : Prop :=
  ∀ (line : Line) (b : Bool) (s : State),
    decode ⟨.ba line, vectorOf [false, true, true, b], .zero⟩ = .ok (.baTakeOffer line b) ∧
    (s.params.hasLine line = true →
      ∃ t, exec (.baTakeOffer line b) s = .next t ∧
      ((s.accs[line]).getLsbD 17 = true →
        t.accs[line] = 0x00001 ∧ t.baPorts[line].taken = some ((s.accs[line]).extractLsb' 0 17) ∧
          t.baPorts[line].accepted = false) ∧
      ((s.accs[line]).getLsbD 17 = false →
        (t.accs[line]).toNat = 2 * (s.accs[line]).toNat + b.toNat ∧ t.baPorts[line].taken = none ∧
          t.baPorts[line].accepted = true) ∧
      t.baPorts[line].wordValid = (s.accs[line]).getLsbD 17 ∧ t.baPorts[line].word = (s.accs[line]).extractLsb' 0 17 ∧
      OnlyLine line s t)

/-- R116: `BA.RESET` empties the register, rejects any bit, and returns the word only to a take of a full register. -/
def Obligations.BaResetEmptiesRegister : Prop :=
  ∀ (line : Line) (take v b : Bool) (s : State),
    decode ⟨.ba line, vectorOf [true, take, v, b], .zero⟩ = .ok (.baReset line take v b) ∧
    (s.params.hasLine line = true →
      ∃ t, exec (.baReset line take v b) s = .next t ∧ t.accs[line] = 0x00001 ∧ t.baPorts[line].accepted = false ∧
      (take = true ∧ (s.accs[line]).getLsbD 17 = true →
        t.baPorts[line].taken = some ((s.accs[line]).extractLsb' 0 17)) ∧
      (take = false ∨ (s.accs[line]).getLsbD 17 = false → t.baPorts[line].taken = none) ∧
      t.baPorts[line].wordValid = (s.accs[line]).getLsbD 17 ∧ t.baPorts[line].word = (s.accs[line]).extractLsb' 0 17 ∧
      OnlyLine line s t)

/-- The model's choice (notes/assumptions/14.md): an operation on a line without an accumulator is refused by name. -/
def Obligations.AbsentLineIsRefused : Prop :=
  ∀ (line : Line) (take v b : Bool) (s : State), s.params.hasLine line = false →
    exec (.baHold line b) s = .refused .noSuchLine ∧ exec (.baOffer line b) s = .refused .noSuchLine ∧
    exec (.baTake line b) s = .refused .noSuchLine ∧ exec (.baTakeOffer line b) s = .refused .noSuchLine ∧
    exec (.baReset line take v b) s = .refused .noSuchLine

/-- R120: after `n <= 17` accepted bits from the empty state, `acc` is the number `1 b1 b2 ... bn`, the first bit the most
significant. -/
def Obligations.OffersAssembleWordInOrder : Prop :=
  ∀ (line : Line) (bits : List Bool) (s : State), s.params.hasLine line = true → s.accs[line] = emptyAcc →
    bits.length ≤ 17 →
    ∃ t, runOps (bits.map fun b => .baOffer line b) s = .next t ∧
      (t.accs[line]).toNat = bits.foldl (fun n b => 2 * n + b.toNat) 1 ∧
      (∀ (k : Nat) (h : k < bits.length), (t.accs[line]).getLsbD (bits.length - 1 - k) = bits[k]) ∧ OnlyLine line s t

/-- R113, R121: however many bits are offered to a full register, it is never overwritten. -/
def Obligations.FullRegisterIsNeverOverwritten : Prop :=
  ∀ (line : Line) (bits : List Bool) (s : State), s.params.hasLine line = true → (s.accs[line]).getLsbD 17 = true →
    ∃ t, runOps (bits.map fun b => .baOffer line b) s = .next t ∧ t.accs = s.accs ∧ OnlyLine line s t

/-- R118: with fewer than 17 bits since the empty state a take returns nothing, and the reset that ends the envelope returns
nothing and leaves the register exactly empty. -/
def Obligations.IncompletePulseVanishes : Prop :=
  ∀ (line : Line) (bits : List Bool) (take v b : Bool) (s : State), s.params.hasLine line = true →
    s.accs[line] = emptyAcc → bits.length < 17 →
    ∃ t u w, runOps (bits.map fun b => .baOffer line b) s = .next t ∧
      exec (.baTake line b) t = .next u ∧ u.baPorts[line].taken = none ∧ u.accs = t.accs ∧
      exec (.baReset line take v b) t = .next w ∧ w.baPorts[line].taken = none ∧ w.accs = s.accs

/-- R122, Scenario C: a full register that is reset without a take gives nothing to any take before 17 new bits have arrived. -/
def Obligations.StaleWordNeverSurfaces : Prop :=
  ∀ (line : Line) (bits : List Bool) (v b : Bool) (s : State), s.params.hasLine line = true →
    (s.accs[line]).getLsbD 17 = true → bits.length < 17 →
    ∃ t u w, exec (.baReset line false v b) s = .next t ∧ t.baPorts[line].taken = none ∧ t.accs[line] = 0x00001 ∧
      runOps (bits.map fun b => .baOffer line b) t = .next u ∧
      exec (.baTake line b) u = .next w ∧ w.baPorts[line].taken = none ∧ w.accs = u.accs

/-! ### Search Unit -/

/-- R131: `SU.HOLD` leaves every register of the unit unchanged; its outputs show the pre-state. -/
def Obligations.SuHoldKeepsRegisters : Prop :=
  ∀ s : State,
    decode ⟨.su, vectorOf [false, false], .zero⟩ = .ok .suHold ∧
    ∃ t, exec .suHold s = .next t ∧ t.su = s.su ∧ t.draws = s.draws ∧
    t.suPorts = { startAccepted := false, busy := s.su.state == .searching, found := s.su.matched,
                  matchedIndex := s.su.matchedIndex } ∧ OnlySu s t

/-- R132: an accepted start writes every slot, the target, the counter, `matched`, the episode's record and `su_state` together. -/
def Obligations.SuStartSeedsEverySlot : Prop :=
  ∀ (request : StartRequest) (s : State),
    decode ⟨.su, vectorOf [false, true], { Operands.zero with request := request }⟩ = .ok (.suStart request) ∧
    (1 ≤ request.tickBudget → request.tickBudget ≤ s.params.maxB →
      ∃ t, exec (.suStart request) s = .next t ∧
      (∀ i : Slot, t.su.slots[i] = request.startWord) ∧ t.su.target = request.targetWord ∧
      t.su.ticksRemaining = request.tickBudget ∧ t.su.matched = false ∧ t.su.epStart = request.startWord ∧
      t.su.epBudget = request.tickBudget ∧ t.su.state = .searching ∧ t.suPorts.startAccepted = true ∧ OnlySu s t)

/-- R144: a start with a budget of 0 is refused, in every state, and the controller never asks for one: its least budget is 2. -/
def Obligations.SuStartOfZeroBudgetIsRefused : Prop :=
  ∀ (startWord targetWord : Word) (s : State),
    exec (.suStart { startWord := startWord, targetWord := targetWord, tickBudget := 0 }) s = .refused .zeroBudget ∧
    (startValid s = true → 2 ≤ (startOperands s).tickBudget)

/-- R133, R135: a tick that has not (window and a hit) and does not exhaust the budget advances every slot, decrements, and goes
on. -/
def Obligations.SuStepContinues : Prop :=
  ∀ s : State, 2 ≤ s.su.ticksRemaining →
    (s.su.ticksRemaining ≤ 4 → ∀ i : Slot, adv (catRead i) s.su.slots[i] ≠ s.su.target) →
    ∃ t, exec .suStep s = .next t ∧ (∀ i : Slot, t.su.slots[i] = adv (catRead i) s.su.slots[i]) ∧
      t.su = { s.su with slots := t.su.slots, ticksRemaining := s.su.ticksRemaining - 1 } ∧
      t.suPorts = { startAccepted := false, busy := s.su.state == .searching, found := s.su.matched,
                    matchedIndex := s.su.matchedIndex } ∧ OnlySu s t

/-- R133, R136: in the last four ticks of the budget, the last included, the lowest slot whose advanced value is the target wins. -/
def Obligations.SuStepMatchesLowestSlot : Prop :=
  ∀ (s : State) (i : Slot), 1 ≤ s.su.ticksRemaining → s.su.ticksRemaining ≤ 4 →
    adv (catRead i) s.su.slots[i] = s.su.target →
    (∀ j : Slot, j < i → adv (catRead j) s.su.slots[j] ≠ s.su.target) →
    ∃ t, exec .suStep s = .next t ∧ (∀ k : Slot, t.su.slots[k] = adv (catRead k) s.su.slots[k]) ∧
      t.su = { s.su with slots := t.su.slots, ticksRemaining := s.su.ticksRemaining - 1, matched := true,
                         matchedIndex := BitVec.ofNat 5 i.val, state := .idle } ∧
      t.suPorts.startAccepted = false ∧ OnlySu s t

/-- R133, R137: the last tick of the budget without a hit ends the episode with `matched` = 0; `matchedIndex` is left open. -/
def Obligations.SuStepTimesOut : Prop :=
  ∀ s : State, s.su.ticksRemaining = 1 → (∀ i : Slot, adv (catRead i) s.su.slots[i] ≠ s.su.target) →
    ∃ t, exec .suStep s = .next t ∧ (∀ k : Slot, t.su.slots[k] = adv (catRead k) s.su.slots[k]) ∧
      t.su = { s.su with slots := t.su.slots, ticksRemaining := 0, matched := false,
                         matchedIndex := t.su.matchedIndex, state := .idle } ∧
      t.suPorts.startAccepted = false ∧ OnlySu s t

/-- R138: a start request while Searching is answered with `start_accepted` = 0 and forgotten; the post-state is that of
`SU.STEP`. -/
def Obligations.SuStepRejectStepsTheEpisode : Prop :=
  ∀ (request : StartRequest) (s : State),
    decode ⟨.su, vectorOf [true, true], { Operands.zero with request := request }⟩ = .ok (.suStepReject request) ∧
    ∃ t, exec (.suStepReject request) s = .next t ∧ exec .suStep s = .next t ∧
    t.suPorts.startAccepted = false ∧ OnlySu s t

/-- R140, R141: from an accepted start the tick rules give the result of the whole-episode function after exactly its number of
ticks, and the unit is busy in every tick before. -/
def Obligations.TicksAgreeWithEpisode : Prop :=
  ∀ (request : StartRequest) (s : State), 1 ≤ request.tickBudget → request.tickBudget ≤ s.params.maxB →
    let result := episode request.startWord request.targetWord request.tickBudget
    (∃ t, runOps (.suStart request :: List.replicate result.ticks .suStep) s = .next t ∧ t.su.state = .idle ∧
      (∀ i, result.found = some i → t.su.matched = true ∧ t.su.matchedIndex = indexOf i) ∧
      (result.found = none → t.su.matched = false) ∧ OnlySu s t) ∧
    ∀ k, k < result.ticks →
      ∃ u, runOps (.suStart request :: List.replicate k .suStep) s = .next u ∧ u.su.state = .searching

/-- R140, R147: the whole-episode function finds, among the last four offsets of the budget (from 1 on), the least at which some
slot holds the target, and among those slots the lowest; where there is none it lasts the whole budget. -/
def Obligations.EpisodeFindsLeastOffset : Prop :=
  ∀ (startWord target : Word) (budget : Nat), 1 ≤ budget →
    let result := episode startWord target budget
    (∀ i, result.found = some i →
      max 1 (budget - 3) ≤ result.ticks ∧ result.ticks ≤ budget ∧
      advN (catRead i) result.ticks startWord = target ∧
      (∀ j : Slot, j < i → advN (catRead j) result.ticks startWord ≠ target) ∧
      ∀ n, max 1 (budget - 3) ≤ n → n < result.ticks → ∀ j : Slot, advN (catRead j) n startWord ≠ target) ∧
    (result.found = none → result.ticks = budget ∧
      ∀ n, max 1 (budget - 3) ≤ n → n ≤ budget → ∀ j : Slot, advN (catRead j) n startWord ≠ target)

/-- R143: a search for 0 from 0 finds slot 0 in the first comparison tick; from 0 nothing else is found, and 0 is found from
nothing else. -/
def Obligations.ZeroWordEpisodes : Prop :=
  ∀ budget : Nat, 1 ≤ budget →
    episode 0 0 budget = { found := some 0, ticks := max 1 (budget - 3) } ∧
    (∀ target : Word, target ≠ 0 → episode 0 target budget = { found := none, ticks := budget }) ∧
    (∀ startWord : Word, startWord ≠ 0 → episode startWord 0 budget = { found := none, ticks := budget })

/-- R72: each slot's own control vector selects the Sequence Generator operation that the Search Unit's operation performs on that
slot: `load` with an accepted start, `step` in a Searching tick. -/
def Obligations.SlotVectorsAgreeWithSearchUnit : Prop :=
  ∀ (s : State) (ins : TickInputs) (slot : Slot), ∃ i j v,
    decode (suEncoded s ins) = .ok i ∧ decode (sgEncoded s ins slot) = .ok j ∧ exec j s = .next v ∧
    ∀ u, exec i s = .next u → u.su.slots[slot] = v.su.slots[slot]

/-! ### Pulse Identification Controller -/

/-- R161: `PIC.WAIT_PULSE` leaves every register of the controller unchanged. -/
def Obligations.PicWaitPulseKeepsRegisters : Prop :=
  ∀ (r b : Bool) (s : State),
    decode ⟨.pic, vectorOf [false, false, false, r, b], .zero⟩ = .ok (.picWaitPulse r b) ∧
    ∃ t, exec (.picWaitPulse r b) s = .next t ∧ t.pic = s.pic ∧
    t.picPorts.consumed = none ∧ t.picPorts.emitted = none ∧ OnlyPic s t

/-- R167: `PIC.WAIT_SEARCH` leaves every register of the controller unchanged. -/
def Obligations.PicWaitSearchKeepsRegisters : Prop :=
  ∀ (v r : Bool) (s : State),
    decode ⟨.pic, vectorOf [true, false, v, r, true], .zero⟩ = .ok (.picWaitSearch v r) ∧
    ∃ t, exec (.picWaitSearch v r) s = .next t ∧ t.pic = s.pic ∧
    t.picPorts.consumed = none ∧ t.picPorts.emitted = none ∧ OnlyPic s t

/-- R162: `PIC.ACCEPT` takes every field of the record, whatever it is, and goes to PredictWindow; the latches and `polyIndex` are
unchanged. -/
def Obligations.PicAcceptTakesRecord : Prop :=
  ∀ (r b : Bool) (pulse : PulseRecord) (s : State),
    decode ⟨.pic, vectorOf [false, false, true, r, b], { Operands.zero with pulse := pulse }⟩ = .ok (.picAccept r b pulse) ∧
    (pulse.pulseWidth < 2 ^ s.params.pwBits →
      ∃ t, exec (.picAccept r b pulse) s = .next t ∧ t.pic = { s.pic with cur := pulse, state := .predictWindow } ∧
      t.picPorts.consumed = some pulse ∧ t.picPorts.emitted = none ∧ OnlyPic s t)

/-- R163: the predicted budget is the difference of the timestamps modulo `2^24`, divided by 4 and rounded down, plus 2: never
truncated, and between 2 and `2^22 + 1`. -/
def Obligations.PredictedBudgetIsExact : Prop :=
  ∀ timestamp lastTimestamp : Timestamp,
    predictedBudget timestamp lastTimestamp = (timestamp.toNat + (2 ^ 24 - lastTimestamp.toNat)) % 2 ^ 24 / 4 + 2 ∧
    2 ≤ predictedBudget timestamp lastTimestamp ∧ predictedBudget timestamp lastTimestamp ≤ 2 ^ 22 + 1

/-- R164, R165: in PredictWindow a budget above `2^CW - 1` skips the search: no start request, the code `0x3F`, and Emit. -/
def Obligations.PicPredictSkipsOutOfRange : Prop :=
  ∀ (v r b : Bool) (s : State),
    decode ⟨.pic, vectorOf [false, true, v, r, b], .zero⟩ = .ok (.picPredict v r b) ∧
    (s.pic.state = .predictWindow →
      2 ^ s.params.cw - 1 < predictedBudget s.pic.cur.timestamp s.pic.lastTimestamp →
    ∃ t, exec (.picPredict v r b) s = .next t ∧ t.pic = { s.pic with polyIndex := 0x3F, state := .emit } ∧
      t.picPorts.start = none ∧ t.picPorts.consumed = none ∧ t.picPorts.emitted = none ∧ OnlyPic s t)

/-- R166: in PredictWindow a budget in range is requested of the Search Unit, with the last word as start and the current word as
target; an idle Search Unit, driven by nobody else, starts on it in the same tick; and the controller goes to Searching. -/
def Obligations.PicPredictRequestsSearch : Prop :=
  ∀ (v r b : Bool) (s : State),
    decode ⟨.pic, vectorOf [false, true, v, r, b], .zero⟩ = .ok (.picPredict v r b) ∧
    (s.pic.state = .predictWindow →
      predictedBudget s.pic.cur.timestamp s.pic.lastTimestamp ≤ 2 ^ s.params.cw - 1 →
    ∃ t, exec (.picPredict v r b) s = .next t ∧ t.pic = { s.pic with state := .searching } ∧
      t.picPorts.start = some
        { startWord := s.pic.lastWord, targetWord := s.pic.cur.beamWord,
          tickBudget := predictedBudget s.pic.cur.timestamp s.pic.lastTimestamp } ∧
      2 ≤ predictedBudget s.pic.cur.timestamp s.pic.lastTimestamp ∧
      (∀ ins : TickInputs, ins.start = none → s.su.state = .idle →
        ∃ request, t.picPorts.start = some request ∧ decode (suEncoded s ins) = .ok (.suStart request)) ∧
      t.picPorts.consumed = none ∧ t.picPorts.emitted = none ∧ OnlyPic s t)

/-- R164: a pulse is out of range exactly when its untruncated budget exceeds `2^CW - 1`: at the default `CW` = 10, when it is at
least 1024, when the difference of the timestamps is at least 4088. -/
def Obligations.OutOfRangeIsAboveMaxBudget : Prop :=
  ∀ s : State,
    (outOfRange s = true ↔ 2 ^ s.params.cw - 1 < predictedBudget s.pic.cur.timestamp s.pic.lastTimestamp) ∧
    (s.params.cw = 10 →
      (outOfRange s = true ↔ 1024 ≤ predictedBudget s.pic.cur.timestamp s.pic.lastTimestamp) ∧
      (outOfRange s = true ↔ 1022 ≤ (delta s.pic.cur.timestamp s.pic.lastTimestamp).toNat >>> 2) ∧
      (outOfRange s = true ↔ 4088 ≤ (delta s.pic.cur.timestamp s.pic.lastTimestamp).toNat))

/-- R168: `PIC.COLLECT` takes the code from the Search Unit's result, `0x3F` where nothing was found, and goes to Emit. -/
def Obligations.PicCollectTakesCode : Prop :=
  ∀ (v r found : Bool) (index : CatalogIndex) (s : State),
    decode ⟨.pic, vectorOf [true, false, v, r, false],
        { Operands.zero with found := found, matchedIndex := index }⟩ = .ok (.picCollect v r found index) ∧
    ∃ t, exec (.picCollect v r found index) s = .next t ∧
      (found = true → t.pic.polyIndex.toNat = index.toNat) ∧ (found = false → t.pic.polyIndex = 0x3F) ∧
      t.pic = { s.pic with polyIndex := t.pic.polyIndex, state := .emit } ∧
      t.picPorts.consumed = none ∧ t.picPorts.emitted = none ∧ OnlyPic s t

/-- R169, R170: in Emit without a ready sink the record is held on the port, the latches are written, and the controller stays. -/
def Obligations.PicHoldEmitHoldsRecord : Prop :=
  ∀ (v b : Bool) (s : State),
    decode ⟨.pic, vectorOf [true, true, v, false, b], .zero⟩ = .ok (.picHoldEmit v b) ∧
    (s.pic.state = .emit →
      ∃ t, exec (.picHoldEmit v b) s = .next t ∧
      t.pic = { s.pic with lastTimestamp := s.pic.cur.timestamp, lastWord := s.pic.cur.beamWord } ∧
      t.picPorts.out = some { pulse := s.pic.cur, polyIndex := s.pic.polyIndex } ∧ t.picPorts.pulseReady = false ∧
      t.picPorts.outValid = true ∧
      t.picPorts.consumed = none ∧ t.picPorts.emitted = none ∧ OnlyPic s t)

/-- R170, R171: in Emit with a ready sink the sink takes the record in this tick, the latches are written, and the controller
returns to Idle. -/
def Obligations.PicEmitHandsRecordOver : Prop :=
  ∀ (v b : Bool) (s : State),
    decode ⟨.pic, vectorOf [true, true, v, true, b], .zero⟩ = .ok (.picEmit v b) ∧
    (s.pic.state = .emit →
      ∃ t, exec (.picEmit v b) s = .next t ∧
      t.pic = { s.pic with lastTimestamp := s.pic.cur.timestamp, lastWord := s.pic.cur.beamWord, state := .idle } ∧
      t.picPorts.emitted = some { pulse := s.pic.cur, polyIndex := s.pic.polyIndex } ∧
      t.picPorts.out = some { pulse := s.pic.cur, polyIndex := s.pic.polyIndex } ∧ t.picPorts.pulseReady = false ∧
      t.picPorts.consumed = none ∧ OnlyPic s t)

/-- R175, R234: from Idle, a pulse presented in the next tick is in Emit, unchanged and with the code of the per-pulse function,
exactly after the ticks R234 counts, whatever the other inputs of those ticks are (no reset, no second requester). -/
def Obligations.PulseGetsTheCodeOfItsEpisode : Prop :=
  ∀ (s : State) (pulse : PulseRecord), pulse.pulseWidth < 2 ^ s.params.pwBits →
    s.pic.state = .idle → s.su.state = .idle → (fetchTick s).pulse = some pulse →
    (∀ t ∈ s.script, t.rst = false ∧ t.start = none) →
    ∃ t, Host.Core.run core (ticksToEmit s.params s.pic.lastTimestamp s.pic.lastWord pulse) s = .next t ∧
      t.pic.state = .emit ∧ t.pic.cur = pulse ∧
      t.pic.polyIndex = identify s.params s.pic.lastTimestamp s.pic.lastWord pulse

/-- From R162, R170, R173, R174: in every tick without a reset, a record is consumed in Idle only, and as the ports present it;
while the controller is not Idle it shows `pulse_ready` = 0, keeps the record in hand bit for bit, and returns to Idle exactly when
the sink takes that record; and the latches are written in Emit only. That the consumed `pulseWidth` is the presented one modulo
`2^PW_BITS`, which differs only from a number too wide for its port, is the model's reading (notes/assumptions/10.md). -/
def Obligations.ControllerSerialisesPulses : Prop :=
  ∀ s t : State, (fetchTick s).rst = false → step s = .next t →
    t.picPorts.pulseReady = (s.pic.state == .idle) ∧
    (∀ pulse, t.picPorts.consumed = some pulse →
      s.pic.state = .idle ∧ t.pic.state = .predictWindow ∧ t.pic.cur = pulse ∧
        ∃ offered, (fetchTick s).pulse = some offered ∧
          pulse = { offered with pulseWidth := offered.pulseWidth % 2 ^ s.params.pwBits }) ∧
    (s.pic.state ≠ .idle →
      t.picPorts.consumed = none ∧ t.pic.cur = s.pic.cur ∧
        (t.pic.state = .idle ↔ t.picPorts.emitted = some { pulse := s.pic.cur, polyIndex := s.pic.polyIndex })) ∧
    (s.pic.state ≠ .emit →
      t.picPorts.emitted = none ∧ t.pic.lastTimestamp = s.pic.lastTimestamp ∧ t.pic.lastWord = s.pic.lastWord) ∧
    (s.pic.state = .emit → t.pic.lastTimestamp = s.pic.cur.timestamp ∧ t.pic.lastWord = s.pic.cur.beamWord)

/-! ### Reset -/

/-- R220: `CORE.RESET` empties every accumulator, returns both state machines to Idle, clears `matched`, loads the latches with the
parameters, and shows no acknowledgement in its tick; the script and the parameters are kept. -/
def Obligations.CoreResetWritesResetValues : Prop :=
  ∀ s : State,
    decode ⟨.core, vectorOf [true], .zero⟩ = .ok .coreReset ∧
    ∃ t, exec .coreReset s = .next t ∧ (∀ line : Line, t.accs[line] = 0x00001) ∧
    t.su.state = .idle ∧ t.su.matched = false ∧ t.pic.state = .idle ∧
    t.pic.lastTimestamp = s.params.lastTsReset ∧ t.pic.lastWord = s.params.lastWordReset ∧
    (∀ line : Line, t.baPorts[line].accepted = false ∧ t.baPorts[line].taken = none) ∧
    t.suPorts.startAccepted = false ∧ t.picPorts.pulseReady = false ∧ t.picPorts.outValid = false ∧
    t.picPorts.emitted = none ∧ t.params = s.params ∧ t.script = s.script ∧ t.sgPort = s.sgPort

/-- R223, R34: after reset the accumulators are empty, the Search Unit is Idle with `found` = 0, and the controller is Idle with
`pulse_ready` = 1. -/
def Obligations.ResetStateIsInitial : Prop :=
  (∀ line : Line, State.reset.accs[line] = 0x00001) ∧ State.reset.su.state = .idle ∧ State.reset.su.matched = false ∧
    pulseReady State.reset.pic = true

/-- R75, R199: in a tick with `rst` = 1 the only operation is `CORE.RESET`, whatever the blocks' own vectors say. -/
def Obligations.ResetTickRunsOnlyReset : Prop :=
  ∀ s : State, (fetchTick s).rst = true →
    ∃ t, exec .coreReset s = .next t ∧ step s = .next { t with script := s.script.tail }

/-! ### The tick -/

/-- A step runs the decoded operations: where the blocks' vectors decode, the step is their effects in turn, and the next entry of
the script. -/
def Obligations.StepRunsDecodedOperations : Prop :=
  ∀ (s : State) (is : List Instr), tickOps s = .ok is →
    (∀ t, runOps is s = .next t → step s = .next { t with script := t.script.tail }) ∧
    (∀ r, runOps is s = .refused r → step s = .refused r)

/-- R71, R111: which operation a line's inputs select, `env_end` first, then a take, then an offer. -/
def Obligations.AccumulatorSelection : Prop :=
  ∀ (ins : TickInputs) (line : Line),
    let c := ins.ba[line]
    decode (baEncoded ins line) = .ok
      (if c.envEnd then .baReset line c.take c.bitValid c.bitIn
       else if c.take then (if c.bitValid then .baTakeOffer line c.bitIn else .baTake line c.bitIn)
       else if c.bitValid then .baOffer line c.bitIn else .baHold line c.bitIn)

/-- R73: which operation the Search Unit's state and start port select. -/
def Obligations.SearchUnitSelection : Prop :=
  ∀ (s : State) (ins : TickInputs),
    (s.su.state = .idle → startPort s ins = none → decode (suEncoded s ins) = .ok .suHold) ∧
    (∀ r, s.su.state = .idle → startPort s ins = some r → decode (suEncoded s ins) = .ok (.suStart r)) ∧
    (s.su.state = .searching → startPort s ins = none → decode (suEncoded s ins) = .ok .suStep) ∧
    (∀ r, s.su.state = .searching → startPort s ins = some r → decode (suEncoded s ins) = .ok (.suStepReject r))

/-- R74: which operation the controller's state and inputs select, with the Search Unit's pre-state result as operand. -/
def Obligations.ControllerSelection : Prop :=
  ∀ (s : State) (ins : TickInputs),
    let v := ins.pulse.isSome
    let r := ins.sinkReady
    let b := s.su.state == .searching
    (s.pic.state = .idle → ins.pulse = none → decode (picEncoded s ins) = .ok (.picWaitPulse r b)) ∧
    (∀ pulse, s.pic.state = .idle → ins.pulse = some pulse → decode (picEncoded s ins) = .ok (.picAccept r b pulse)) ∧
    (s.pic.state = .predictWindow → decode (picEncoded s ins) = .ok (.picPredict v r b)) ∧
    (s.pic.state = .searching → s.su.state = .searching → decode (picEncoded s ins) = .ok (.picWaitSearch v r)) ∧
    (s.pic.state = .searching → s.su.state = .idle →
      decode (picEncoded s ins) = .ok (.picCollect v r s.su.matched s.su.matchedIndex)) ∧
    (s.pic.state = .emit → ins.sinkReady = false → decode (picEncoded s ins) = .ok (.picHoldEmit v b)) ∧
    (s.pic.state = .emit → ins.sinkReady = true → decode (picEncoded s ins) = .ok (.picEmit v b))

/-- R13, R61: the operations of a tick act at once: each block's part of the post-state is what its own operation, decoded from the
pre-state, gives on the pre-state. -/
def Obligations.TickIsSimultaneous : Prop :=
  ∀ (s t : State), (fetchTick s).rst = false → step s = .next t →
    (∃ i u, decode (suEncoded s (fetchTick s)) = .ok i ∧ exec i s = .next u ∧
      t.su = u.su ∧ t.suPorts = u.suPorts ∧ t.draws = u.draws) ∧
    (∃ i u, decode (picEncoded s (fetchTick s)) = .ok i ∧ exec i s = .next u ∧
      t.pic = u.pic ∧ t.picPorts = u.picPorts) ∧
    (∀ line : Line, s.params.hasLine line = true →
      ∃ i u, decode (baEncoded (fetchTick s) line) = .ok i ∧ exec i s = .next u ∧
        t.accs[line] = u.accs[line] ∧ t.baPorts[line] = u.baPorts[line]) ∧
    (∀ line : Line, s.params.hasLine line = false →
      t.accs[line] = s.accs[line] ∧ t.baPorts[line] = s.baPorts[line]) ∧
    t.params = s.params ∧ t.script = s.script.tail ∧ t.sgPort = s.sgPort

/-- A tick completes in every state but for the one refusal of R144 (R190), an accepted start with a budget of 0, which is refused by
name. That the budget is the number on the port and that the whole tick is refused is the model's choice
(notes/assumptions/10.md, notes/assumptions/18.md). -/
def Obligations.TickCompletesUnlessZeroBudget : Prop :=
  ∀ s : State,
    (((fetchTick s).rst = false ∧ s.su.state = .idle ∧
        ∃ request, startPort s (fetchTick s) = some request ∧ request.tickBudget % 2 ^ s.params.cw = 0) →
      step s = .refused .zeroBudget) ∧
    (¬((fetchTick s).rst = false ∧ s.su.state = .idle ∧
        ∃ request, startPort s (fetchTick s) = some request ∧ request.tickBudget % 2 ^ s.params.cw = 0) →
      ∃ t, step s = .next t)

/-- R190, R33: without a second requester every tick completes: the controller never asks for a budget of 0. -/
def Obligations.AssembledCoreAlwaysCompletes : Prop :=
  ∀ s : State, (fetchTick s).start = none → ∃ t, step s = .next t

/-! ### Invariants -/

/-- R139, R134, R136: whoever drives the start port, a running episode follows its polynomials with a counter that never wraps, and
a reported match is a true one, made in the trailing window by the lowest slot. -/
def Obligations.StepKeepsSearchInv : Prop :=
  ∀ s t : State, SearchInv s → step s = .next t → SearchInv t

/-- R27 (a), R28, R29: no accumulator loses its sentinel, and the registers of open width keep to it. -/
def Obligations.StepKeepsSentinelsAndWidths : Prop :=
  ∀ s t : State, AccsHoldSentinel s → RegistersFit s → step s = .next t → AccsHoldSentinel t ∧ RegistersFit t

/-- R33, R54, R139: every step of the assembled CORE keeps its invariant: the Search Unit runs only for the controller, on the
controller's request, and a code in Emit is `0x3F` or a true match of this pulse's word. -/
def Obligations.StepKeepsCoreInv : Prop :=
  ∀ s t : State, CoreInv s → step s = .next t → CoreInv t

/-- The invariant holds at reset. -/
def Obligations.ResetHasCoreInv : Prop := CoreInv State.reset

/-- R54: the codes 32 to 62 are never emitted, and the record emitted is the one in hand. -/
def Obligations.EmittedCodesAreLegal : Prop :=
  ∀ (s t : State) (record : IdentifiedPulse), CoreInv s → step s = .next t → t.picPorts.emitted = some record →
    record.pulse = s.pic.cur ∧ (record.polyIndex.toNat < 32 ∨ record.polyIndex = 0x3F)

/-- R134, R136, R168: an emitted index names a slot whose generator does reach the record's word, in a number of steps that lies in
the last four of the episode's budget, and no lower slot reaches it in as many steps. -/
def Obligations.EmittedIndexIsATrueMatch : Prop :=
  ∀ (s t : State) (record : IdentifiedPulse), CoreInv s → step s = .next t → t.picPorts.emitted = some record →
    record.polyIndex ≠ 0x3F →
    ∃ (i : Slot) (n : Nat), record.polyIndex.toNat = i.val ∧ 1 ≤ n ∧ n ≤ s.su.epBudget ∧ s.su.epBudget < n + 4 ∧
      advN (catRead i) n s.su.epStart = record.pulse.beamWord ∧
      ∀ j : Slot, j < i → advN (catRead j) n s.su.epStart ≠ record.pulse.beamWord
end

