-- ==== Sys2Proof/Laws/State.lean ====
section
/-! SUPPORT. One lemma per field and update of the state, true by `rfl`, so that no later proof unfolds a record update. -/

namespace Sys2Proof.Machine

variable (s : State)

/-! ### `State.setAcc` -/

@[simp] theorem State.setAcc_params (line : Line) (v : Acc) : (s.setAcc line v).params = s.params := rfl
@[simp] theorem State.setAcc_accs (line : Line) (v : Acc) : (s.setAcc line v).accs = s.accs.set line v := rfl
@[simp] theorem State.setAcc_su (line : Line) (v : Acc) : (s.setAcc line v).su = s.su := rfl
@[simp] theorem State.setAcc_pic (line : Line) (v : Acc) : (s.setAcc line v).pic = s.pic := rfl
@[simp] theorem State.setAcc_script (line : Line) (v : Acc) : (s.setAcc line v).script = s.script := rfl
@[simp] theorem State.setAcc_baPorts (line : Line) (v : Acc) : (s.setAcc line v).baPorts = s.baPorts := rfl
@[simp] theorem State.setAcc_suPorts (line : Line) (v : Acc) : (s.setAcc line v).suPorts = s.suPorts := rfl
@[simp] theorem State.setAcc_picPorts (line : Line) (v : Acc) : (s.setAcc line v).picPorts = s.picPorts := rfl
@[simp] theorem State.setAcc_sgPort (line : Line) (v : Acc) : (s.setAcc line v).sgPort = s.sgPort := rfl
@[simp] theorem State.setAcc_draws (line : Line) (v : Acc) : (s.setAcc line v).draws = s.draws := rfl

/-! ### `State.setBaPorts` -/

@[simp] theorem State.setBaPorts_params (line : Line) (v : BaPorts) : (s.setBaPorts line v).params = s.params := rfl
@[simp] theorem State.setBaPorts_accs (line : Line) (v : BaPorts) : (s.setBaPorts line v).accs = s.accs := rfl
@[simp] theorem State.setBaPorts_su (line : Line) (v : BaPorts) : (s.setBaPorts line v).su = s.su := rfl
@[simp] theorem State.setBaPorts_pic (line : Line) (v : BaPorts) : (s.setBaPorts line v).pic = s.pic := rfl
@[simp] theorem State.setBaPorts_script (line : Line) (v : BaPorts) : (s.setBaPorts line v).script = s.script := rfl
@[simp] theorem State.setBaPorts_baPorts (line : Line) (v : BaPorts) : (s.setBaPorts line v).baPorts = s.baPorts.set line v := rfl
@[simp] theorem State.setBaPorts_suPorts (line : Line) (v : BaPorts) : (s.setBaPorts line v).suPorts = s.suPorts := rfl
@[simp] theorem State.setBaPorts_picPorts (line : Line) (v : BaPorts) : (s.setBaPorts line v).picPorts = s.picPorts := rfl
@[simp] theorem State.setBaPorts_sgPort (line : Line) (v : BaPorts) : (s.setBaPorts line v).sgPort = s.sgPort := rfl
@[simp] theorem State.setBaPorts_draws (line : Line) (v : BaPorts) : (s.setBaPorts line v).draws = s.draws := rfl

/-! ### `State.setSu` -/

@[simp] theorem State.setSu_params (v : SuRegs) : (s.setSu v).params = s.params := rfl
@[simp] theorem State.setSu_accs (v : SuRegs) : (s.setSu v).accs = s.accs := rfl
@[simp] theorem State.setSu_su (v : SuRegs) : (s.setSu v).su = v := rfl
@[simp] theorem State.setSu_pic (v : SuRegs) : (s.setSu v).pic = s.pic := rfl
@[simp] theorem State.setSu_script (v : SuRegs) : (s.setSu v).script = s.script := rfl
@[simp] theorem State.setSu_baPorts (v : SuRegs) : (s.setSu v).baPorts = s.baPorts := rfl
@[simp] theorem State.setSu_suPorts (v : SuRegs) : (s.setSu v).suPorts = s.suPorts := rfl
@[simp] theorem State.setSu_picPorts (v : SuRegs) : (s.setSu v).picPorts = s.picPorts := rfl
@[simp] theorem State.setSu_sgPort (v : SuRegs) : (s.setSu v).sgPort = s.sgPort := rfl
@[simp] theorem State.setSu_draws (v : SuRegs) : (s.setSu v).draws = s.draws := rfl

/-! ### `State.setSuPorts` -/

@[simp] theorem State.setSuPorts_params (v : SuPorts) : (s.setSuPorts v).params = s.params := rfl
@[simp] theorem State.setSuPorts_accs (v : SuPorts) : (s.setSuPorts v).accs = s.accs := rfl
@[simp] theorem State.setSuPorts_su (v : SuPorts) : (s.setSuPorts v).su = s.su := rfl
@[simp] theorem State.setSuPorts_pic (v : SuPorts) : (s.setSuPorts v).pic = s.pic := rfl
@[simp] theorem State.setSuPorts_script (v : SuPorts) : (s.setSuPorts v).script = s.script := rfl
@[simp] theorem State.setSuPorts_baPorts (v : SuPorts) : (s.setSuPorts v).baPorts = s.baPorts := rfl
@[simp] theorem State.setSuPorts_suPorts (v : SuPorts) : (s.setSuPorts v).suPorts = v := rfl
@[simp] theorem State.setSuPorts_picPorts (v : SuPorts) : (s.setSuPorts v).picPorts = s.picPorts := rfl
@[simp] theorem State.setSuPorts_sgPort (v : SuPorts) : (s.setSuPorts v).sgPort = s.sgPort := rfl
@[simp] theorem State.setSuPorts_draws (v : SuPorts) : (s.setSuPorts v).draws = s.draws := rfl

/-! ### `State.setPic` -/

@[simp] theorem State.setPic_params (v : PicRegs) : (s.setPic v).params = s.params := rfl
@[simp] theorem State.setPic_accs (v : PicRegs) : (s.setPic v).accs = s.accs := rfl
@[simp] theorem State.setPic_su (v : PicRegs) : (s.setPic v).su = s.su := rfl
@[simp] theorem State.setPic_pic (v : PicRegs) : (s.setPic v).pic = v := rfl
@[simp] theorem State.setPic_script (v : PicRegs) : (s.setPic v).script = s.script := rfl
@[simp] theorem State.setPic_baPorts (v : PicRegs) : (s.setPic v).baPorts = s.baPorts := rfl
@[simp] theorem State.setPic_suPorts (v : PicRegs) : (s.setPic v).suPorts = s.suPorts := rfl
@[simp] theorem State.setPic_picPorts (v : PicRegs) : (s.setPic v).picPorts = s.picPorts := rfl
@[simp] theorem State.setPic_sgPort (v : PicRegs) : (s.setPic v).sgPort = s.sgPort := rfl
@[simp] theorem State.setPic_draws (v : PicRegs) : (s.setPic v).draws = s.draws := rfl

/-! ### `State.setPicPorts` -/

@[simp] theorem State.setPicPorts_params (v : PicPorts) : (s.setPicPorts v).params = s.params := rfl
@[simp] theorem State.setPicPorts_accs (v : PicPorts) : (s.setPicPorts v).accs = s.accs := rfl
@[simp] theorem State.setPicPorts_su (v : PicPorts) : (s.setPicPorts v).su = s.su := rfl
@[simp] theorem State.setPicPorts_pic (v : PicPorts) : (s.setPicPorts v).pic = s.pic := rfl
@[simp] theorem State.setPicPorts_script (v : PicPorts) : (s.setPicPorts v).script = s.script := rfl
@[simp] theorem State.setPicPorts_baPorts (v : PicPorts) : (s.setPicPorts v).baPorts = s.baPorts := rfl
@[simp] theorem State.setPicPorts_suPorts (v : PicPorts) : (s.setPicPorts v).suPorts = s.suPorts := rfl
@[simp] theorem State.setPicPorts_picPorts (v : PicPorts) : (s.setPicPorts v).picPorts = v := rfl
@[simp] theorem State.setPicPorts_sgPort (v : PicPorts) : (s.setPicPorts v).sgPort = s.sgPort := rfl
@[simp] theorem State.setPicPorts_draws (v : PicPorts) : (s.setPicPorts v).draws = s.draws := rfl

/-! ### `State.setSgPort` -/

@[simp] theorem State.setSgPort_params (v : Option Word) : (s.setSgPort v).params = s.params := rfl
@[simp] theorem State.setSgPort_accs (v : Option Word) : (s.setSgPort v).accs = s.accs := rfl
@[simp] theorem State.setSgPort_su (v : Option Word) : (s.setSgPort v).su = s.su := rfl
@[simp] theorem State.setSgPort_pic (v : Option Word) : (s.setSgPort v).pic = s.pic := rfl
@[simp] theorem State.setSgPort_script (v : Option Word) : (s.setSgPort v).script = s.script := rfl
@[simp] theorem State.setSgPort_baPorts (v : Option Word) : (s.setSgPort v).baPorts = s.baPorts := rfl
@[simp] theorem State.setSgPort_suPorts (v : Option Word) : (s.setSgPort v).suPorts = s.suPorts := rfl
@[simp] theorem State.setSgPort_picPorts (v : Option Word) : (s.setSgPort v).picPorts = s.picPorts := rfl
@[simp] theorem State.setSgPort_sgPort (v : Option Word) : (s.setSgPort v).sgPort = v := rfl
@[simp] theorem State.setSgPort_draws (v : Option Word) : (s.setSgPort v).draws = s.draws := rfl

/-! ### `State.nextDraw` -/

@[simp] theorem State.nextDraw_params : (s.nextDraw).params = s.params := rfl
@[simp] theorem State.nextDraw_accs : (s.nextDraw).accs = s.accs := rfl
@[simp] theorem State.nextDraw_su : (s.nextDraw).su = s.su := rfl
@[simp] theorem State.nextDraw_pic : (s.nextDraw).pic = s.pic := rfl
@[simp] theorem State.nextDraw_script : (s.nextDraw).script = s.script := rfl
@[simp] theorem State.nextDraw_baPorts : (s.nextDraw).baPorts = s.baPorts := rfl
@[simp] theorem State.nextDraw_suPorts : (s.nextDraw).suPorts = s.suPorts := rfl
@[simp] theorem State.nextDraw_picPorts : (s.nextDraw).picPorts = s.picPorts := rfl
@[simp] theorem State.nextDraw_sgPort : (s.nextDraw).sgPort = s.sgPort := rfl
@[simp] theorem State.nextDraw_draws : (s.nextDraw).draws = s.draws + 1 := rfl

/-! ### `State.popScript` -/

@[simp] theorem State.popScript_params : (s.popScript).params = s.params := rfl
@[simp] theorem State.popScript_accs : (s.popScript).accs = s.accs := rfl
@[simp] theorem State.popScript_su : (s.popScript).su = s.su := rfl
@[simp] theorem State.popScript_pic : (s.popScript).pic = s.pic := rfl
@[simp] theorem State.popScript_script : (s.popScript).script = s.script.tail := rfl
@[simp] theorem State.popScript_baPorts : (s.popScript).baPorts = s.baPorts := rfl
@[simp] theorem State.popScript_suPorts : (s.popScript).suPorts = s.suPorts := rfl
@[simp] theorem State.popScript_picPorts : (s.popScript).picPorts = s.picPorts := rfl
@[simp] theorem State.popScript_sgPort : (s.popScript).sgPort = s.sgPort := rfl
@[simp] theorem State.popScript_draws : (s.popScript).draws = s.draws := rfl

/-! ### `State.pushTick` -/

@[simp] theorem State.pushTick_params (v : TickInputs) : (s.pushTick v).params = s.params := rfl
@[simp] theorem State.pushTick_accs (v : TickInputs) : (s.pushTick v).accs = s.accs := rfl
@[simp] theorem State.pushTick_su (v : TickInputs) : (s.pushTick v).su = s.su := rfl
@[simp] theorem State.pushTick_pic (v : TickInputs) : (s.pushTick v).pic = s.pic := rfl
@[simp] theorem State.pushTick_script (v : TickInputs) : (s.pushTick v).script = v :: s.script := rfl
@[simp] theorem State.pushTick_baPorts (v : TickInputs) : (s.pushTick v).baPorts = s.baPorts := rfl
@[simp] theorem State.pushTick_suPorts (v : TickInputs) : (s.pushTick v).suPorts = s.suPorts := rfl
@[simp] theorem State.pushTick_picPorts (v : TickInputs) : (s.pushTick v).picPorts = s.picPorts := rfl
@[simp] theorem State.pushTick_sgPort (v : TickInputs) : (s.pushTick v).sgPort = s.sgPort := rfl
@[simp] theorem State.pushTick_draws (v : TickInputs) : (s.pushTick v).draws = s.draws := rfl

/-! ### `State.setSlot` -/

@[simp] theorem State.setSlot_params (i : Slot) (w : Word) : (s.setSlot i w).params = s.params := rfl
@[simp] theorem State.setSlot_accs (i : Slot) (w : Word) : (s.setSlot i w).accs = s.accs := rfl
@[simp] theorem State.setSlot_su (i : Slot) (w : Word) : (s.setSlot i w).su = { s.su with slots := s.su.slots.set i w } := rfl
@[simp] theorem State.setSlot_pic (i : Slot) (w : Word) : (s.setSlot i w).pic = s.pic := rfl
@[simp] theorem State.setSlot_script (i : Slot) (w : Word) : (s.setSlot i w).script = s.script := rfl
@[simp] theorem State.setSlot_baPorts (i : Slot) (w : Word) : (s.setSlot i w).baPorts = s.baPorts := rfl
@[simp] theorem State.setSlot_suPorts (i : Slot) (w : Word) : (s.setSlot i w).suPorts = s.suPorts := rfl
@[simp] theorem State.setSlot_picPorts (i : Slot) (w : Word) : (s.setSlot i w).picPorts = s.picPorts := rfl
@[simp] theorem State.setSlot_sgPort (i : Slot) (w : Word) : (s.setSlot i w).sgPort = s.sgPort := rfl
@[simp] theorem State.setSlot_draws (i : Slot) (w : Word) : (s.setSlot i w).draws = s.draws := rfl

end Sys2Proof.Machine
end

