-- ==== Sys2Proof/Laws/Ops.lean ====
section
/-! SUPPORT. What each shared operation can do, said once: later proofs cite these lemmas and unfold none of the operations. -/

namespace Sys2Proof.Machine

/-! ### The accumulator -/

/-- An operation on a line that exists answers next, with the effect on the register and all the line's ports. -/
theorem onLine_of_hasLine (line : Line) (effect : Acc → BaEffect) (s : State) (h : s.params.hasLine line = true) :
    onLine line effect s =
      .next ((s.setAcc line (effect s.accs[line]).acc).setBaPorts line
        { accepted := (effect s.accs[line]).accepted, wordValid := full s.accs[line], word := accWord s.accs[line]
          taken := (effect s.accs[line]).taken }) := by
  simp [onLine, h]

/-- An operation on a line that does not exist is refused. -/
theorem onLine_of_absent (line : Line) (effect : Acc → BaEffect) (s : State) (h : s.params.hasLine line = false) :
    onLine line effect s = .refused .noSuchLine := by
  simp [onLine, h]

/-- If an accumulator operation answers next, the line exists and the post-state is the one stated. -/
theorem onLine_next {line : Line} {effect : Acc → BaEffect} {s t : State} (h : onLine line effect s = .next t) :
    s.params.hasLine line = true ∧
      t = (s.setAcc line (effect s.accs[line]).acc).setBaPorts line
        { accepted := (effect s.accs[line]).accepted, wordValid := full s.accs[line], word := accWord s.accs[line]
          taken := (effect s.accs[line]).taken } := by
  cases hl : s.params.hasLine line with
  | false => rw [onLine_of_absent _ _ _ hl] at h; cases h
  | true => rw [onLine_of_hasLine _ _ _ hl] at h; cases h; exact ⟨rfl, rfl⟩

@[simp] theorem setAcc_accs_self (s : State) (line : Line) (acc : Acc) : (s.setAcc line acc).accs[line] = acc := by
  simp [State.setAcc]

@[simp] theorem setBaPorts_baPorts_self (s : State) (line : Line) (ports : BaPorts) :
    (s.setBaPorts line ports).baPorts[line] = ports := by
  simp [State.setBaPorts]

theorem setAcc_accs_other (s : State) {line other : Line} (acc : Acc) (h : other ≠ line) :
    (s.setAcc line acc).accs[other] = s.accs[other] := by
  have : (line : Nat) ≠ other := fun e => h (Fin.ext e.symm)
  simp [State.setAcc, this]

theorem setBaPorts_baPorts_other (s : State) {line other : Line} (ports : BaPorts) (h : other ≠ line) :
    (s.setBaPorts line ports).baPorts[other] = s.baPorts[other] := by
  have : (line : Nat) ≠ other := fun e => h (Fin.ext e.symm)
  simp [State.setBaPorts, this]

theorem baShift_of_full {acc : Acc} (b : Bool) (h : full acc = true) : baShift b acc = baKeep acc := by
  simp [baShift, h]

theorem baShift_of_not_full {acc : Acc} (b : Bool) (h : full acc = false) :
    baShift b acc = { acc := shiftIn acc b, accepted := true, taken := none } := by
  simp [baShift, h]

theorem baTakeIfFull_of_full {acc : Acc} (h : full acc = true) :
    baTakeIfFull acc = { acc := emptyAcc, accepted := false, taken := some (accWord acc) } := by
  simp [baTakeIfFull, h]

theorem baTakeIfFull_of_not_full {acc : Acc} (h : full acc = false) : baTakeIfFull acc = baKeep acc := by
  simp [baTakeIfFull, h]

theorem full_iff (acc : Acc) : full acc = true ↔ 2 ^ 17 ≤ acc.toNat := by
  have h := acc.isLt
  rw [full, BitVec.getLsbD, Nat.testBit_eq_decide_div_mod_eq]
  simp only [decide_eq_true_eq]
  omega

/-- Shifting a bit in doubles the register and adds the bit, modulo `2^18`. -/
theorem shiftIn_toNat (acc : Acc) (b : Bool) : (shiftIn acc b).toNat = (2 * acc.toNat + b.toNat) % 2 ^ 18 := by
  have h : shiftIn acc b = acc + acc + BitVec.ofNat 18 b.toNat := by
    rw [shiftIn, ← BitVec.add_eq_or_of_and_eq_zero]
    · congr 1
      · apply BitVec.eq_of_toNat_eq; simp [BitVec.toNat_shiftLeft, Nat.shiftLeft_eq]; omega
      · cases b <;> rfl
    · ext i hi
      cases b <;> simp [BitVec.getElem_shiftLeft]
      intro h1 h2
      omega
  rw [h]
  cases b <;> simp [BitVec.toNat_add] <;> omega

/-! ### Slots and hits -/

/-- The first index in order at which a predicate holds. -/
theorem find_finRange_eq_some {n : Nat} (p : Fin n → Bool) (i : Fin n) :
    (List.finRange n).find? p = some i ↔ p i = true ∧ ∀ j, j < i → p j = false := by
  constructor
  · intro h
    obtain ⟨hp, l, r, hl, hr⟩ := List.find?_eq_some_iff_append.1 h
    refine ⟨hp, fun j hj => ?_⟩
    have hmem : j ∈ l ++ i :: r := hl ▸ List.mem_finRange j
    have hs : (l ++ i :: r).Pairwise (· < ·) := hl ▸ List.pairwise_lt_finRange n
    rcases List.mem_append.1 hmem with hm | hm
    · simpa using hr j hm
    · rcases List.mem_cons.1 hm with rfl | hm
      · exact absurd hj (lt_irrefl _)
      · have := (List.pairwise_append.1 hs).2.1
        have := (List.pairwise_cons.1 this).1 j hm
        exact absurd (lt_trans this hj) (lt_irrefl _)
  · rintro ⟨hp, hlt⟩
    rcases h : (List.finRange n).find? p with _ | k
    · exact absurd hp (by simpa using List.find?_eq_none.1 h i (List.mem_finRange i))
    · obtain ⟨hk, l, r, hl, hr⟩ := List.find?_eq_some_iff_append.1 h
      rcases lt_trichotomy k i with hki | rfl | hik
      · exact absurd hk (by simp [hlt k hki])
      · rfl
      · have hs : (l ++ k :: r).Pairwise (· < ·) := hl ▸ List.pairwise_lt_finRange n
        have hmem : i ∈ l ++ k :: r := hl ▸ List.mem_finRange i
        rcases List.mem_append.1 hmem with hm | hm
        · exact absurd hp (by simpa using hr i hm)
        · rcases List.mem_cons.1 hm with rfl | hm
          · rfl
          · have := (List.pairwise_append.1 hs).2.1
            have := (List.pairwise_cons.1 this).1 i hm
            exact absurd (lt_trans this hik) (lt_irrefl _)

theorem find_finRange_eq_none {n : Nat} (p : Fin n → Bool) :
    (List.finRange n).find? p = none ↔ ∀ i, p i = false := by
  simp [List.find?_eq_none]

/-- `min(hits)` (R136). -/
theorem lowestHit_eq_some (slots : Vector Word 32) (target : Word) (i : Slot) :
    lowestHit slots target = some i ↔ slots[i] = target ∧ ∀ j : Slot, j < i → slots[j] ≠ target := by
  rw [lowestHit, find_finRange_eq_some]; simp

theorem lowestHit_eq_none (slots : Vector Word 32) (target : Word) :
    lowestHit slots target = none ↔ ∀ i : Slot, slots[i] ≠ target := by
  rw [lowestHit, find_finRange_eq_none]; simp

theorem hitAfter_eq_some (startWord target : Word) (n : Nat) (i : Slot) :
    hitAfter startWord target n = some i ↔
      advN (catRead i) n startWord = target ∧ ∀ j : Slot, j < i → advN (catRead j) n startWord ≠ target := by
  rw [hitAfter, find_finRange_eq_some]; simp

theorem hitAfter_eq_none (startWord target : Word) (n : Nat) :
    hitAfter startWord target n = none ↔ ∀ i : Slot, advN (catRead i) n startWord ≠ target := by
  rw [hitAfter, find_finRange_eq_none]; simp

@[simp] theorem advanceSlots_get (slots : Vector Word 32) (i : Slot) :
    (advanceSlots slots)[i] = adv (catRead i) slots[i] := by
  simp [advanceSlots]

@[simp] theorem seedSlots_get (w : Word) (i : Slot) : (seedSlots w)[i] = w := by
  simp [seedSlots]

/-- Slots that have followed their polynomials for `n` ticks follow them for `n + 1` after an advance. -/
theorem advanceSlots_follow {slots : Vector Word 32} {startWord : Word} {n : Nat}
    (h : ∀ i : Slot, slots[i] = advN (catRead i) n startWord) (i : Slot) :
    (advanceSlots slots)[i] = advN (catRead i) (n + 1) startWord := by
  rw [advanceSlots_get, h i]; rfl

/-! ### The generator's arithmetic -/

/-- The exclusive-or of the low `n` bits is the parity of their number of ones (R100). -/
theorem parityBelow_toNat {w : Nat} (v : BitVec w) (n : Nat) :
    (parityBelow v n).toNat = ((List.range n).countP fun k => v.getLsbD k) % 2 := by
  induction n with
  | zero => rfl
  | succ n ih =>
    rw [List.range_succ, List.countP_append, parityBelow]
    cases h : v.getLsbD n <;> cases h' : parityBelow v n <;> simp [h, h'] at ih ⊢ <;> omega

/-- One step of a generator, bit by bit: the parity enters at bit 0 and every other bit moves up one place (R101). -/
theorem adv_getLsbD (p s : Word) (i : Nat) :
    (adv p s).getLsbD i = if i = 0 then parity (s &&& p) else (decide (i < 17) && s.getLsbD (i - 1)) := by
  simp only [adv]
  cases i with
  | zero => simp
  | succ n => simp

/-! ### The tick of a search -/

/-- An accepted start in one equation: every field it does not name is the pre-state's (R132). -/
theorem beginEpisode_eq (request : StartRequest) (s : State) :
    beginEpisode request s =
      { s with
        su :=
          { state := .searching, slots := seedSlots request.startWord, target := request.targetWord
            ticksRemaining := truncCw s.params request.tickBudget, matched := false
            matchedIndex := freeBits 5 .matchedIndex s.draws, epStart := request.startWord
            epBudget := truncCw s.params request.tickBudget }
        suPorts := suPortsOf s.su true
        draws := s.draws + 1 } := rfl

/-- The counter is decremented where it is at least 1, as R139 says it is. -/
theorem tickDown_of_pos {s : State} (h : 1 ≤ s.su.ticksRemaining) : tickDown s = s.su.ticksRemaining - 1 := by
  rw [tickDown, if_neg (by omega)]

/-- Whatever the counter held, the decremented one fits its width if the old one did. -/
theorem tickDown_lt {s : State} (h : s.su.ticksRemaining < 2 ^ s.params.cw) : tickDown s < 2 ^ s.params.cw := by
  unfold tickDown truncCw
  split
  · exact Nat.mod_lt _ (Nat.two_pow_pos _)
  · omega

theorem truncCw_of_lt {p : Params} {n : Nat} (h : n ≤ p.maxB) : truncCw p n = n := by
  have := Nat.two_pow_pos p.cw
  rw [truncCw, Nat.mod_eq_of_lt]
  unfold Params.maxB at h
  omega

theorem truncCw_lt (p : Params) (n : Nat) : truncCw p n < 2 ^ p.cw := Nat.mod_lt _ (Nat.two_pow_pos _)

theorem truncPw_lt (p : Params) (n : Nat) : truncPw p n < 2 ^ p.pwBits := Nat.mod_lt _ (Nat.two_pow_pos _)

/-- The outcome in the window and outside it. -/
theorem searchOutcome_in_window {r1 : Nat} {slots : Vector Word 32} {target : Word} (h : r1 < window) :
    searchOutcome r1 slots target =
      match lowestHit slots target with
      | some i => .matchedBy i
      | none => if r1 = 0 then .timedOut else .continued := by
  have hi : inWindow r1 = true := decide_eq_true h
  unfold searchOutcome
  rw [hi]
  cases lowestHit slots target <;> rfl

theorem searchOutcome_outside_window {r1 : Nat} {slots : Vector Word 32} {target : Word} (h : ¬r1 < window) :
    searchOutcome r1 slots target = .continued := by
  have h0 : r1 ≠ 0 := by rintro rfl; exact h (by decide)
  simp [searchOutcome, inWindow, h, h0]

/-- MATCH: in the window, the lowest slot that hits (R136). -/
theorem searchOutcome_matched {r1 : Nat} {slots : Vector Word 32} {target : Word} {i : Slot} :
    searchOutcome r1 slots target = .matchedBy i ↔ r1 < window ∧ lowestHit slots target = some i := by
  by_cases hw : r1 < window
  · rw [searchOutcome_in_window hw]
    rcases lowestHit slots target with _ | k <;> simp [hw]
    split <;> simp
  · simp [searchOutcome_outside_window hw, hw]

/-- TIMEOUT: the counter at 0 and no hit (R137). -/
theorem searchOutcome_timedOut {r1 : Nat} {slots : Vector Word 32} {target : Word} :
    searchOutcome r1 slots target = .timedOut ↔ r1 = 0 ∧ lowestHit slots target = none := by
  by_cases hw : r1 < window
  · rw [searchOutcome_in_window hw]
    rcases lowestHit slots target with _ | k <;> simp
  · have h0 : r1 ≠ 0 := by rintro rfl; exact hw (by decide)
    simp [searchOutcome_outside_window hw, h0]

/-- CONTINUE: neither (R135). -/
theorem searchOutcome_continued {r1 : Nat} {slots : Vector Word 32} {target : Word} :
    searchOutcome r1 slots target = .continued ↔ r1 ≠ 0 ∧ (r1 < window → lowestHit slots target = none) := by
  by_cases hw : r1 < window
  · rw [searchOutcome_in_window hw]
    rcases lowestHit slots target with _ | k <;> simp [hw]
  · have h0 : r1 ≠ 0 := by rintro rfl; exact hw (by decide)
    simp [searchOutcome_outside_window hw, h0, hw]

/-- A tick of a search in one equation: every field it does not name is the pre-state's. -/
theorem searchTick_eq (s : State) :
    searchTick s =
      { s with
        su := settle (searchOutcome (tickDown s) (advanceSlots s.su.slots) s.su.target) s.draws
          { s.su with slots := advanceSlots s.su.slots, ticksRemaining := tickDown s }
        suPorts := suPortsOf s.su false
        draws := s.draws + 1 } := rfl

/-- What a tick of a search can do to the unit's registers: go on, report the lowest hit in the window, or time out. -/
theorem searchTick_su_cases (s : State) :
    ((searchTick s).su = { s.su with slots := advanceSlots s.su.slots, ticksRemaining := tickDown s } ∧
        tickDown s ≠ 0 ∧ (tickDown s < window → ∀ i : Slot, (advanceSlots s.su.slots)[i] ≠ s.su.target)) ∨
    (∃ i : Slot, (searchTick s).su =
          { s.su with slots := advanceSlots s.su.slots, ticksRemaining := tickDown s, matched := true,
                      matchedIndex := indexOf i, state := .idle } ∧
        tickDown s < window ∧ (advanceSlots s.su.slots)[i] = s.su.target ∧
        ∀ j : Slot, j < i → (advanceSlots s.su.slots)[j] ≠ s.su.target) ∨
    ((searchTick s).su =
          { s.su with slots := advanceSlots s.su.slots, ticksRemaining := tickDown s, matched := false,
                      matchedIndex := freeBits 5 .matchedIndex s.draws, state := .idle } ∧
        tickDown s = 0 ∧ ∀ i : Slot, (advanceSlots s.su.slots)[i] ≠ s.su.target) := by
  rw [searchTick_eq]
  rcases h : searchOutcome (tickDown s) (advanceSlots s.su.slots) s.su.target with _ | i | _
  · obtain ⟨h0, hw⟩ := searchOutcome_continued.1 h
    exact .inl ⟨rfl, h0, fun hlt => (lowestHit_eq_none _ _).1 (hw hlt)⟩
  · obtain ⟨hw, hi⟩ := searchOutcome_matched.1 h
    exact .inr (.inl ⟨i, rfl, hw, (lowestHit_eq_some _ _ _).1 hi⟩)
  · obtain ⟨h0, hn⟩ := searchOutcome_timedOut.1 h
    exact .inr (.inr ⟨rfl, h0, (lowestHit_eq_none _ _).1 hn⟩)

/-! ### The controller -/

/-- The least budget is 2 (R163). -/
theorem two_le_predictedBudget (timestamp lastTimestamp : Timestamp) : 2 ≤ predictedBudget timestamp lastTimestamp :=
  Nat.le_add_left 2 _

theorem outOfRange_iff (s : State) :
    outOfRange s = true ↔ s.params.maxB < predictedBudget s.pic.cur.timestamp s.pic.lastTimestamp := by
  simp [outOfRange]

@[simp] theorem emitLatch_state (pic : PicRegs) : (emitLatch pic).state = pic.state := rfl
@[simp] theorem emitLatch_cur (pic : PicRegs) : (emitLatch pic).cur = pic.cur := rfl
@[simp] theorem emitLatch_polyIndex (pic : PicRegs) : (emitLatch pic).polyIndex = pic.polyIndex := rfl
@[simp] theorem emitLatch_lastTimestamp (pic : PicRegs) : (emitLatch pic).lastTimestamp = pic.cur.timestamp := rfl
@[simp] theorem emitLatch_lastWord (pic : PicRegs) : (emitLatch pic).lastWord = pic.cur.beamWord := rfl
@[simp] theorem degrade_state (pic : PicRegs) : (degrade pic).state = .emit := rfl
@[simp] theorem degrade_cur (pic : PicRegs) : (degrade pic).cur = pic.cur := rfl
@[simp] theorem degrade_polyIndex (pic : PicRegs) : (degrade pic).polyIndex = unident := rfl
@[simp] theorem degrade_lastTimestamp (pic : PicRegs) : (degrade pic).lastTimestamp = pic.lastTimestamp := rfl
@[simp] theorem degrade_lastWord (pic : PicRegs) : (degrade pic).lastWord = pic.lastWord := rfl

end Sys2Proof.Machine
end

