-- ==== Sys2Proof/Laws/PerInstr.lean ====
section
/-! SUPPORT. Facts about every operation as syntax, one lemma per constructor. -/

namespace Sys2Proof.Laws.EncodesInRow

/-- The operation's control vector stands in its own row of the opcode table: in the row's format, no wider than the format,
with the row's fixed bits. -/
def Statement (i : Instr) : Prop :=
  ∃ r ∈ opcodeRows, r.mnemonic = i.mnemonic ∧ r.format = (encode i).block.format ∧ r.selects (encode i).vector = true

/-- A row of the table and the operation's vector written out are enough. -/
theorem of_row (i : Instr) (r : OpRow) (bits : List Bool) (hr : r ∈ opcodeRows) (hm : r.mnemonic = i.mnemonic)
    (hf : r.format = (encode i).block.format) (hv : (encode i).vector = vectorOf bits)
    (hs : r.selects (vectorOf bits) = true) : Statement i :=
  ⟨r, hr, hm, hf, hv ▸ hs⟩

theorem coreReset : Statement .coreReset :=
  of_row _ ⟨"CORE.RESET", .g, 0x01, 0x01⟩ [true] (by decide) rfl rfl rfl (by decide)

theorem baReset (line : Line) (t v b : Bool) : Statement (.baReset line t v b) :=
  of_row _ ⟨"BA.RESET", .ba, 0x08, 0x08⟩ [true, t, v, b] (by decide) rfl rfl rfl (by revert t v b; decide)

theorem baTakeOffer (line : Line) (b : Bool) : Statement (.baTakeOffer line b) :=
  of_row _ ⟨"BA.TAKE_OFFER", .ba, 0x06, 0x0E⟩ [false, true, true, b] (by decide) rfl rfl rfl (by revert b; decide)

theorem baTake (line : Line) (b : Bool) : Statement (.baTake line b) :=
  of_row _ ⟨"BA.TAKE", .ba, 0x04, 0x0E⟩ [false, true, false, b] (by decide) rfl rfl rfl (by revert b; decide)

theorem baOffer (line : Line) (b : Bool) : Statement (.baOffer line b) :=
  of_row _ ⟨"BA.OFFER", .ba, 0x02, 0x0E⟩ [false, false, true, b] (by decide) rfl rfl rfl (by revert b; decide)

theorem baHold (line : Line) (b : Bool) : Statement (.baHold line b) :=
  of_row _ ⟨"BA.HOLD", .ba, 0x00, 0x0E⟩ [false, false, false, b] (by decide) rfl rfl rfl (by revert b; decide)

theorem sgReset (slot : Slot) (step : Bool) (seed : Word) : Statement (.sgReset slot step seed) :=
  of_row _ ⟨"SG.RESET", .sg, 0x02, 0x02⟩ [true, step] (by decide) rfl rfl rfl (by revert step; decide)

theorem sgAdvance (slot : Slot) : Statement (.sgAdvance slot) :=
  of_row _ ⟨"SG.ADVANCE", .sg, 0x01, 0x03⟩ [false, true] (by decide) rfl rfl rfl (by decide)

theorem sgHold (slot : Slot) : Statement (.sgHold slot) :=
  of_row _ ⟨"SG.HOLD", .sg, 0x00, 0x03⟩ [false, false] (by decide) rfl rfl rfl (by decide)

theorem sgValue (slot : Slot) (load step : Bool) : Statement (.sgValue slot load step) :=
  of_row _ ⟨"SG.VALUE", .sgr, 0x00, 0x00⟩ [load, step] (by decide) rfl rfl rfl (by revert load step; decide)

theorem suHold : Statement .suHold :=
  of_row _ ⟨"SU.HOLD", .su, 0x00, 0x03⟩ [false, false] (by decide) rfl rfl rfl (by decide)

theorem suStart (request : StartRequest) : Statement (.suStart request) :=
  of_row _ ⟨"SU.START", .su, 0x01, 0x03⟩ [false, true] (by decide) rfl rfl rfl (by decide)

theorem suStep : Statement .suStep :=
  of_row _ ⟨"SU.STEP", .su, 0x02, 0x03⟩ [true, false] (by decide) rfl rfl rfl (by decide)

theorem suStepReject (request : StartRequest) : Statement (.suStepReject request) :=
  of_row _ ⟨"SU.STEP_REJECT", .su, 0x03, 0x03⟩ [true, true] (by decide) rfl rfl rfl (by decide)

theorem picWaitPulse (r b : Bool) : Statement (.picWaitPulse r b) :=
  of_row _ ⟨"PIC.WAIT_PULSE", .pic, 0x00, 0x1C⟩ [false, false, false, r, b] (by decide) rfl rfl rfl (by revert r b; decide)

theorem picAccept (r b : Bool) (pulse : PulseRecord) : Statement (.picAccept r b pulse) :=
  of_row _ ⟨"PIC.ACCEPT", .pic, 0x04, 0x1C⟩ [false, false, true, r, b] (by decide) rfl rfl rfl (by revert r b; decide)

theorem picPredict (v r b : Bool) : Statement (.picPredict v r b) :=
  of_row _ ⟨"PIC.PREDICT", .pic, 0x08, 0x18⟩ [false, true, v, r, b] (by decide) rfl rfl rfl (by revert v r b; decide)

theorem picWaitSearch (v r : Bool) : Statement (.picWaitSearch v r) :=
  of_row _ ⟨"PIC.WAIT_SEARCH", .pic, 0x11, 0x19⟩ [true, false, v, r, true] (by decide) rfl rfl rfl (by revert v r; decide)

theorem picCollect (v r found : Bool) (index : CatalogIndex) : Statement (.picCollect v r found index) :=
  of_row _ ⟨"PIC.COLLECT", .pic, 0x10, 0x19⟩ [true, false, v, r, false] (by decide) rfl rfl rfl (by revert v r; decide)

theorem picHoldEmit (v b : Bool) : Statement (.picHoldEmit v b) :=
  of_row _ ⟨"PIC.HOLD_EMIT", .pic, 0x18, 0x1A⟩ [true, true, v, false, b] (by decide) rfl rfl rfl (by revert v b; decide)

theorem picEmit (v b : Bool) : Statement (.picEmit v b) :=
  of_row _ ⟨"PIC.EMIT", .pic, 0x1A, 0x1A⟩ [true, true, v, true, b] (by decide) rfl rfl rfl (by revert v b; decide)

end Sys2Proof.Laws.EncodesInRow
end

