-- ==== Sys2Proof/Laws/Tick.lean ====
section
/-! SUPPORT. How a tick is put together: what a written-out vector of each block decodes to, what running a list of operations
does, and that each block's operations read and write that block only. -/

namespace Sys2Proof.Machine

/-! ### Vectors of a block -/

theorem decode_core (ops : Operands) : decode ⟨.core, vectorOf [true], ops⟩ = .ok .coreReset := by
  simp only [decode, Block.format, Format.width]; rfl

theorem decode_ba (line : Line) (e t v b : Bool) (ops : Operands) :
    decode ⟨.ba line, vectorOf [e, t, v, b], ops⟩ = .ok
      (match e, t, v with
        | true, _, _ => .baReset line t v b
        | false, true, true => .baTakeOffer line b
        | false, true, false => .baTake line b
        | false, false, true => .baOffer line b
        | false, false, false => .baHold line b) := by
  simp only [decode, Block.format, Format.width]
  cases e <;> cases t <;> cases v <;> cases b <;> rfl

theorem decode_sg (slot : Slot) (load step : Bool) (ops : Operands) :
    decode ⟨.sg slot, vectorOf [load, step], ops⟩ = .ok
      (match load, step with
        | true, _ => .sgReset slot step ops.seed
        | false, true => .sgAdvance slot
        | false, false => .sgHold slot) := by
  simp only [decode, Block.format, Format.width]
  cases load <;> cases step <;> rfl

theorem decode_su (busyBit start : Bool) (ops : Operands) :
    decode ⟨.su, vectorOf [busyBit, start], ops⟩ = .ok
      (match busyBit, start with
        | false, false => .suHold
        | false, true => .suStart ops.request
        | true, false => .suStep
        | true, true => .suStepReject ops.request) := by
  simp only [decode, Block.format, Format.width]
  cases busyBit <;> cases start <;> rfl

theorem decode_pic (hi lo v r b : Bool) (ops : Operands) :
    decode ⟨.pic, vectorOf [hi, lo, v, r, b], ops⟩ = .ok
      (match hi, lo with
        | false, false => if v then .picAccept r b ops.pulse else .picWaitPulse r b
        | false, true => .picPredict v r b
        | true, false => if b then .picWaitSearch v r else .picCollect v r ops.found ops.matchedIndex
        | true, true => if r then .picEmit v b else .picHoldEmit v b) := by
  simp only [decode, Block.format, Format.width]
  cases hi <;> cases lo <;> cases v <;> cases r <;> cases b <;> rfl

/-! ### Lists of operations -/

theorem decodeAll_of_ok {es : List Encoded} {is : List Instr} (h : List.Forall₂ (fun e i => decode e = .ok i) es is) :
    decodeAll es = .ok is := by
  induction h with
  | nil => rfl
  | cons he _ ih => simp only [decodeAll, he, ih]

theorem runOps_append_of_next {first rest : List Instr} {s t : State} (h : runOps first s = .next t) :
    runOps (first ++ rest) s = runOps rest t := by
  induction first generalizing s with
  | nil => cases h; rfl
  | cons i is ih =>
    simp only [List.cons_append, runOps] at h ⊢
    cases he : exec i s with
    | next u => rw [he] at h; exact ih h
    | fault r => rw [he] at h; cases h
    | refused r => rw [he] at h; cases h

/-! ### Frames -/

theorem OnlyLine.refl (line : Line) (s : State) : OnlyLine line s s :=
  ⟨rfl, rfl, rfl, rfl, rfl, rfl, rfl, rfl, fun _ _ => ⟨rfl, rfl⟩⟩

theorem OnlyLine.trans {line : Line} {s t u : State} (h : OnlyLine line s t) (k : OnlyLine line t u) :
    OnlyLine line s u := by
  obtain ⟨h1, h2, h3, h4, h5, h6, h7, h8, h9⟩ := h
  obtain ⟨k1, k2, k3, k4, k5, k6, k7, k8, k9⟩ := k
  exact ⟨k1.trans h1, k2.trans h2, k3.trans h3, k4.trans h4, k5.trans h5, k6.trans h6, k7.trans h7, k8.trans h8,
    fun o ho => ⟨(k9 o ho).1.trans (h9 o ho).1, (k9 o ho).2.trans (h9 o ho).2⟩⟩

theorem OnlySu.refl (s : State) : OnlySu s s := ⟨rfl, rfl, rfl, rfl, rfl, rfl, rfl⟩

theorem OnlySu.trans {s t u : State} (h : OnlySu s t) (k : OnlySu t u) : OnlySu s u := by
  obtain ⟨h1, h2, h3, h4, h5, h6, h7⟩ := h
  obtain ⟨k1, k2, k3, k4, k5, k6, k7⟩ := k
  exact ⟨k1.trans h1, k2.trans h2, k3.trans h3, k4.trans h4, k5.trans h5, k6.trans h6, k7.trans h7⟩

/-- An accumulator operation that answers next writes its own line only. -/
theorem onLine_only {line : Line} {effect : Acc → BaEffect} {s t : State} (h : onLine line effect s = .next t) :
    OnlyLine line s t := by
  obtain ⟨-, rfl⟩ := onLine_next h
  exact ⟨rfl, rfl, rfl, rfl, rfl, rfl, rfl, rfl,
    fun _ ho => ⟨setAcc_accs_other _ _ ho, setBaPorts_baPorts_other _ _ ho⟩⟩

/-- What an accumulator operation that answers next leaves on its own line. -/
theorem onLine_self {line : Line} {effect : Acc → BaEffect} {s t : State} (h : onLine line effect s = .next t) :
    t.accs[line] = (effect s.accs[line]).acc ∧
      t.baPorts[line] =
        { accepted := (effect s.accs[line]).accepted, wordValid := full s.accs[line], word := accWord s.accs[line]
          taken := (effect s.accs[line]).taken } := by
  obtain ⟨-, rfl⟩ := onLine_next h
  exact ⟨by simp, by simp⟩

theorem searchTick_only (s : State) : OnlySu s (searchTick s) := ⟨rfl, rfl, rfl, rfl, rfl, rfl, rfl⟩

/-- The operation that a line's inputs select, as an effect on its register (R111). -/
def baEffectOf (c : BaInputs) (acc : Acc) : BaEffect :=
  if c.envEnd then
    { acc := emptyAcc, accepted := false, taken := if c.take && full acc then some (accWord acc) else none }
  else if c.take && full acc then { acc := emptyAcc, accepted := false, taken := some (accWord acc) }
  else if c.bitValid then baShift c.bitIn acc
  else baKeep acc

/-- The operation that a line's vector selects, run, is that effect. -/
theorem exec_ba_selected (ins : TickInputs) (line : Line) :
    ∃ i, decode (baEncoded ins line) = .ok i ∧ ∀ s, exec i s = onLine line (baEffectOf ins.ba[line]) s := by
  rcases h : ins.ba[line] with ⟨e, t, v, b⟩
  refine ⟨_, by rw [baEncoded, h]; exact decode_ba line e t v b .zero, fun s => ?_⟩
  have hcongr : ∀ f g : Acc → BaEffect, (∀ acc, f acc = g acc) → onLine line f s = onLine line g s :=
    fun f g hfg => by rw [funext hfg]
  cases e <;> cases t <;> cases v <;>
    simp only [exec, execBaReset, execBaTakeOffer, execBaTake, execBaOffer, execBaHold] <;>
    refine hcongr _ _ fun acc => ?_ <;> cases hf : full acc <;>
    simp [baEffectOf, baTakeIfFull, baShift, baKeep, hf]

/-! ### The accumulators' part of a tick -/

theorem mem_linesOf (p : Params) (line : Line) : line ∈ linesOf p ↔ p.hasLine line = true := by
  simp [linesOf]

theorem linesOf_nodup (p : Params) : (linesOf p).Nodup := (List.nodup_finRange 4).filter _

/-- Operations on distinct lines that exist, run in turn, have on each line the effect they have there alone. -/
theorem runOps_lines (op : Line → Instr) (effect : Line → Acc → BaEffect)
    (hop : ∀ line s, exec (op line) s = onLine line (effect line) s) (lines : List Line) (hn : lines.Nodup) (s : State)
    (hl : ∀ line ∈ lines, s.params.hasLine line = true) :
    ∃ t, runOps (lines.map op) s = .next t ∧
      (∀ line ∈ lines, t.accs[line] = (effect line s.accs[line]).acc ∧
        t.baPorts[line] =
          { accepted := (effect line s.accs[line]).accepted, wordValid := full s.accs[line]
            word := accWord s.accs[line], taken := (effect line s.accs[line]).taken }) ∧
      (∀ line, line ∉ lines → t.accs[line] = s.accs[line] ∧ t.baPorts[line] = s.baPorts[line]) ∧
      t = { s with accs := t.accs, baPorts := t.baPorts } := by
  induction lines generalizing s with
  | nil => exact ⟨s, rfl, by simp, fun _ _ => ⟨rfl, rfl⟩, rfl⟩
  | cons a rest ih =>
    obtain ⟨ha, hr⟩ := List.nodup_cons.1 hn
    have hnext := onLine_of_hasLine a (effect a) s (hl a List.mem_cons_self)
    rw [← hop a s] at hnext
    obtain ⟨t, ht, h1, h2, h3⟩ := ih hr ((s.setAcc a (effect a s.accs[a]).acc).setBaPorts a
      { accepted := (effect a s.accs[a]).accepted, wordValid := full s.accs[a], word := accWord s.accs[a]
        taken := (effect a s.accs[a]).taken }) fun l hm => hl l (List.mem_cons_of_mem _ hm)
    refine ⟨t, by rw [List.map_cons, runOps, hnext]; exact ht, fun l hm => ?_, fun l hm => ?_, by rw [h3]; rfl⟩
    · by_cases hne : l = a
      · subst hne
        have := h2 l ha
        rw [this.1, this.2]
        exact ⟨by simp, by simp⟩
      · have := h1 l ((List.mem_cons.1 hm).resolve_left hne)
        rw [State.setBaPorts_accs, setAcc_accs_other _ _ hne] at this
        exact this
    · have hne : l ≠ a := by rintro rfl; exact hm List.mem_cons_self
      have := h2 l fun h => hm (List.mem_cons_of_mem _ h)
      rw [State.setBaPorts_accs, setAcc_accs_other _ _ hne, setBaPorts_baPorts_other _ _ hne] at this
      exact this

/-! ### Runs -/

/-- A run of `k + 1` steps whose first step answers next. -/
theorem run_succ_of_next (M : Host.Core) (k : Nat) (s t : M.State) (h : M.step s = .next t) :
    M.run (k + 1) s = M.run k t := by
  rw [Host.Core.run, h]

/-- A run may be cut in two. -/
theorem run_add_of_next (M : Host.Core) (a b : Nat) (s t : M.State) (h : M.run a s = .next t) :
    M.run (a + b) s = M.run b t := by
  induction a generalizing s with
  | zero => rw [Host.Core.run] at h; cases h; rw [Nat.zero_add]
  | succ a ih =>
    rw [Nat.add_right_comm, Host.Core.run]
    rw [Host.Core.run] at h
    cases hs : M.step s with
    | next u => rw [hs] at h; exact ih u h
    | fault r => rw [hs] at h; cases h
    | refused r => rw [hs] at h; cases h

/-! ### Runs -/

/-- A tick that answers next is the first of the run, and the rest is the run from its post-state. -/
theorem ticksOf_succ_of_next {s t : State} (n : Nat) (h : step s = .next t) : ticksOf (n + 1) s = t :: ticksOf n t := by
  simp only [ticksOf, h]

/-- What a tick showed is read off the post-state of its step. -/
theorem shownAt_zero_of_next {α : Type} {s t : State} (view : State → Option α) (h : step s = .next t) :
    shownAt s view 0 = view t := by
  simp [shownAt, ticksOf_succ_of_next 0 h]

end Sys2Proof.Machine
end

