-- ==== Sys2Proof/Tests/Slice0.lean ====
section
/-! SUPPORT. The model's own tests. Expected values come from the tables and vectors of spec/30_encoding.md and
spec/95_test_vectors.md, named at each test. Witnesses show that the hypotheses of every obligation can be met together. -/

namespace Sys2Proof.Tests

open Sys2Proof.Machine

/-! ### Helpers -/

/-- The outcome is a next state of which `p` holds. -/
def nextHas (o : Host.Outcome State Fault Refusal) (p : State → Bool) : Bool :=
  match o with
  | .next t => p t
  | .fault _ => false
  | .refused _ => false

/-- The outcome is that refusal. -/
def refusedAs (o : Host.Outcome State Fault Refusal) (r : Refusal) : Bool :=
  match o with
  | .refused q => q == r
  | .next _ => false
  | .fault _ => false

/-- An outcome that satisfies a test is a next state. -/
theorem next_of_nextHas {o : Host.Outcome State Fault Refusal} {p : State → Bool} (h : nextHas o p = true) :
    ∃ t, o = .next t ∧ p t = true := by
  cases o with
  | next t => exact ⟨t, rfl, h⟩
  | fault r => cases h
  | refused r => cases h

def accState (acc : Acc) : State := State.reset.setAcc 0 acc

/-- A running episode whose slots all hold `w`. -/
def suState (w target : Word) (r budget : Nat) : State :=
  State.reset.setSu
    { State.reset.su with
      state := .searching, slots := seedSlots w, target := target, ticksRemaining := r, epStart := w, epBudget := budget }

def pulseOf (sensor : SensorId) (ts : Timestamp) (width : Nat) (w : Word) : PulseRecord :=
  { sensorId := sensor, timestamp := ts, pulseWidth := width, beamWord := w }

def picState (st : PicState) (cur : PulseRecord) (code : PolyIndex) (ts : Timestamp) (w : Word) : State :=
  State.reset.setPic { state := st, cur := cur, polyIndex := code, lastTimestamp := ts, lastWord := w }

def threeLines : Params := { Params.atReset with nsensors := 3 }

def setParams (s : State) (p : Params) : State := { s with params := p }

/-- The assembled CORE in Emit with a true match: from 0x00001 slot 0 reaches 0x00002 in one step (V-SU-4). -/
def matchedState : State :=
  let s := picState .emit (pulseOf 1 0 9 0x00002) 0x00 0 0x00001
  s.setSu
    { s.su with
      slots := advanceSlots (seedSlots 0x00001), target := 0x00002, ticksRemaining := 1, matched := true
      matchedIndex := 0, epStart := 0x00001, epBudget := 2 }

/-! ### Well-formedness: each check refuses an ill-formed term -/

theorem test_wf_line_absent : Instr.wf threeLines (.baOffer 3 true) = false := by decide
theorem test_wf_line_last : Instr.wf threeLines (.baOffer 2 true) = true := by decide
theorem test_wf_budget_too_wide : Instr.wf Params.atReset (.suStart ⟨0, 0, 1024⟩) = false := by decide
theorem test_wf_reject_budget_too_wide : Instr.wf Params.atReset (.suStepReject ⟨0, 0, 1024⟩) = false := by decide
theorem test_wf_budget_maxb : Instr.wf Params.atReset (.suStart ⟨0, 0, 1023⟩) = true := by decide
theorem test_wf_pulse_too_wide :
    Instr.wf Params.atReset (.picAccept true false (pulseOf 0 0 (2 ^ 32) 0)) = false := by decide
theorem test_wf_params_reset : Params.atReset.wf = true := by decide
theorem test_wf_params_cw : Params.wf { Params.atReset with cw := 2 } = false := by decide
theorem test_wf_params_pw : Params.wf { Params.atReset with pwBits := 0 } = false := by decide
theorem test_wf_params_no_line : Params.wf { Params.atReset with nsensors := 0 } = false := by decide
theorem test_wf_params_five_lines : Params.wf { Params.atReset with nsensors := 5 } = false := by decide

/-! ### Decoding: words written out from the tables of R71 to R75, one for each row at least -/

def zeroRequest : StartRequest := ⟨0, 0, 0⟩

theorem test_decode_core_reset : decode ⟨.core, 0b1, .zero⟩ = .ok .coreReset := by decide
theorem test_decode_core_zero : decode ⟨.core, 0b0, .zero⟩ = .error .noGlobalOperation := by decide
theorem test_decode_ba_reset : decode ⟨.ba 3, 0b1010, .zero⟩ = .ok (.baReset 3 false true false) := by decide
theorem test_decode_ba_take_offer : decode ⟨.ba 0, 0b0111, .zero⟩ = .ok (.baTakeOffer 0 true) := by decide
theorem test_decode_ba_take : decode ⟨.ba 1, 0b0100, .zero⟩ = .ok (.baTake 1 false) := by decide
theorem test_decode_ba_offer : decode ⟨.ba 0, 0b0011, .zero⟩ = .ok (.baOffer 0 true) := by decide
theorem test_decode_ba_hold : decode ⟨.ba 0, 0b0001, .zero⟩ = .ok (.baHold 0 true) := by decide
theorem test_decode_ba_too_wide : decode ⟨.ba 0, 0b10000, .zero⟩ = .error .vectorTooWide := by decide
theorem test_decode_sg_reset :
    decode ⟨.sg 12, 0b11, { Operands.zero with seed := 0x1FE72 }⟩ = .ok (.sgReset 12 true 0x1FE72) := by decide
theorem test_decode_sg_advance : decode ⟨.sg 0, 0b01, .zero⟩ = .ok (.sgAdvance 0) := by decide
theorem test_decode_sg_hold : decode ⟨.sg 31, 0b00, .zero⟩ = .ok (.sgHold 31) := by decide
theorem test_decode_sg_value : decode ⟨.sgr 5, 0b10, .zero⟩ = .ok (.sgValue 5 true false) := by decide
theorem test_decode_su_hold : decode ⟨.su, 0b00, .zero⟩ = .ok .suHold := by decide
theorem test_decode_su_start :
    decode ⟨.su, 0b01, { Operands.zero with request := ⟨0x1FE72, 0x0BD25, 184⟩ }⟩ =
      .ok (.suStart ⟨0x1FE72, 0x0BD25, 184⟩) := by decide
theorem test_decode_su_step : decode ⟨.su, 0b10, .zero⟩ = .ok .suStep := by decide
theorem test_decode_su_step_reject : decode ⟨.su, 0b11, .zero⟩ = .ok (.suStepReject zeroRequest) := by decide
theorem test_decode_pic_wait_pulse : decode ⟨.pic, 0b00010, .zero⟩ = .ok (.picWaitPulse true false) := by decide
theorem test_decode_pic_accept :
    decode ⟨.pic, 0b00101, { Operands.zero with pulse := pulseOf 1 0x0003D8 9 0x0BD25 }⟩ =
      .ok (.picAccept false true (pulseOf 1 0x0003D8 9 0x0BD25)) := by decide
theorem test_decode_pic_predict : decode ⟨.pic, 0b01100, .zero⟩ = .ok (.picPredict true false false) := by decide
theorem test_decode_pic_wait_search : decode ⟨.pic, 0b10011, .zero⟩ = .ok (.picWaitSearch false true) := by decide
theorem test_decode_pic_collect :
    decode ⟨.pic, 0b10110, { Operands.zero with found := true, matchedIndex := 12 }⟩ =
      .ok (.picCollect true true true 12) := by decide
theorem test_decode_pic_hold_emit : decode ⟨.pic, 0b11001, .zero⟩ = .ok (.picHoldEmit false true) := by decide
theorem test_decode_pic_emit : decode ⟨.pic, 0b11110, .zero⟩ = .ok (.picEmit true false) := by decide

/-- The rows of one format are disjoint (R70), over every number of eight bits. -/
theorem test_rows_disjoint :
    ∀ r ∈ opcodeRows, ∀ q ∈ opcodeRows, r.format = q.format → r ≠ q →
      (r.matchBits ^^^ q.matchBits) &&& (r.maskBits &&& q.maskBits) ≠ 0 := by decide

/-! ### Bare table words (notes/assumptions/12.md) and the placed vector -/

theorem test_table_word_formats :
    decodeTableWord 1 1 = some .coreReset ∧ decodeTableWord 2 1 = some (.suStart zeroRequest) ∧
      decodeTableWord 4 2 = some (.baOffer 0 false) ∧ decodeTableWord 5 2 = some (.picWaitPulse true false) := by decide

theorem test_table_word_byte :
    decodeTableWord 8 0x01 = some .coreReset ∧ decodeTableWord 8 0x08 = some (.baReset 0 false false false) ∧
      decodeTableWord 8 0x03 = some (.suStepReject zeroRequest) ∧
      decodeTableWord 8 0x10 = some (.picCollect false false false 0) ∧ decodeTableWord 8 0x20 = none := by decide

/-- A placed `PIC.COLLECT` runs as the next step: nothing found, so the code is `0x3F` (R168). -/
theorem test_fetch_word_collect :
    nextHas (step (State.reset.withFetchWord 8 0x10)) (fun t => t.pic.polyIndex == 0x3F && t.pic.state == .emit) = true := by
  decide

/-- A placed `SU.START` with operands of zeros is refused (R144). -/
theorem test_fetch_word_zero_budget : refusedAs (step (State.reset.withFetchWord 2 1)) .zeroBudget = true := by decide

/-! ### Sequence Generator: V-SG-1, V-SG-2, V-SG-5 -/

theorem test_adv_index12 : adv (catRead 12) 0x1FE72 = 0x1FCE4 ∧ adv (catRead 12) 0x0BD25 = 0x17A4B := by decide
theorem test_adv_corners : adv (catRead 5) 0x10000 = 0x00001 ∧ ∀ i : Slot, adv (catRead i) 0x1FFFF = 0x1FFFE := by decide
theorem test_sg_advance :
    nextHas (exec (.sgAdvance 31) (suState 0x1FE72 0 9 9)) (fun t => t.su.slots[31] == 0x1FCE5 && t.su.slots[30] == 0x1FE72)
      = true := by decide
theorem test_sg_eight_steps : advN (catRead 0) 8 0x00001 = 0x0011B := by decide

/-! ### Bit Accumulator: V-BA-2, V-BA-3, V-BA-7 -/

theorem test_ba_offer : nextHas (exec (.baOffer 0 true) (accState 0x0015E)) (fun t => t.accs[0] == 0x002BD) = true := by decide
theorem test_ba_offer_full :
    nextHas (exec (.baOffer 0 true) (accState 0x2BD25))
      (fun t => t.accs[0] == 0x2BD25 && t.baPorts[0].accepted == false) = true := by decide
theorem test_ba_take :
    nextHas (exec (.baTake 0 true) (accState 0x2BD25))
      (fun t => t.accs[0] == 0x00001 && t.baPorts[0].taken == some 0x0BD25) = true := by decide
theorem test_ba_take_offer :
    nextHas (exec (.baTakeOffer 0 true) (accState 0x15E92))
      (fun t => t.accs[0] == 0x2BD25 && t.baPorts[0].accepted && t.baPorts[0].taken == none) = true := by decide
theorem test_ba_take_offer_full :
    nextHas (exec (.baTakeOffer 0 true) (accState 0x2BD25))
      (fun t => t.accs[0] == 0x00001 && !t.baPorts[0].accepted && t.baPorts[0].taken == some 0x0BD25) = true := by decide
theorem test_ba_reset_take :
    nextHas (exec (.baReset 0 true false false) (accState 0x2BD25))
      (fun t => t.accs[0] == 0x00001 && t.baPorts[0].taken == some 0x0BD25) = true := by decide
theorem test_ba_reset_partial :
    nextHas (exec (.baReset 0 true true false) (accState 0x0015E))
      (fun t => t.accs[0] == 0x00001 && t.baPorts[0].taken == none && !t.baPorts[0].accepted) = true := by decide
theorem test_ba_hold :
    nextHas (exec (.baHold 0 true) (accState 0x0015E)) (fun t => t.accs[0] == 0x0015E) = true := by decide

/-! ### Search Unit: V-SU-4, V-SU-8, V-SU-11 -/

theorem test_su_start :
    nextHas (exec (.suStart ⟨0x1FE72, 0x0BD25, 184⟩) State.reset)
      (fun t => t.su.slots[31] == 0x1FE72 && t.su.ticksRemaining == 184 && t.su.state == .searching) = true := by decide
theorem test_su_step_lowest_of_thirteen :
    nextHas (exec .suStep (suState 0x00001 0x00002 2 2)) (fun t => t.su.matched && t.su.matchedIndex == 0) = true := by decide
theorem test_su_step_index_two :
    nextHas (exec .suStep (suState 0x00001 0x00003 2 2))
      (fun t => t.su.matchedIndex == 2 && t.su.state == .idle && t.su.ticksRemaining == 1) = true := by decide
theorem test_su_step_before_window :
    nextHas (exec (.suStepReject zeroRequest) (suState 0x00001 0x00002 5 5))
      (fun t => !t.su.matched && t.su.state == .searching && !t.suPorts.startAccepted) = true := by decide
theorem test_episode_zero : episode 0 0 2 = { found := some 0, ticks := 1 } := by decide
theorem test_episode_short : episode 0x1FE72 0x1FCE4 4 = { found := some 4, ticks := 1 } := by decide

/-! ### Controller: V-PIC-0 and the examples of R162 to R171 -/

theorem test_budget :
    predictedBudget 3 0 = 2 ∧ predictedBudget 727 0 = 183 ∧ predictedBudget 0xFFFFFF 0 = 4194305 ∧
      predictedBudget 0x0001D8 0xFFFF00 = 184 := by decide
theorem test_pic_predict_start :
    nextHas (exec (.picPredict false true false) (picState .predictWindow (pulseOf 1 0x0003D8 9 0x0BD25) 0 0x000100 0x1FE72))
      (fun t => t.picPorts.start == some ⟨0x1FE72, 0x0BD25, 184⟩ && t.pic.state == .searching) = true := by decide
theorem test_pic_predict_skip :
    nextHas (exec (.picPredict false true false) (picState .predictWindow (pulseOf 0 0x0013D0 7 0x0ABCD) 0 0x0003D8 0x0BD25))
      (fun t => t.picPorts.start == none && t.pic.polyIndex == 0x3F && t.pic.state == .emit) = true := by decide
theorem test_pic_collect :
    nextHas (exec (.picCollect true true true 12) (picState .searching (pulseOf 1 0 9 0x0BD25) 0 0 0x1FE72))
      (fun t => t.pic.polyIndex == 0x0C) = true := by decide
theorem test_pic_emit :
    nextHas (exec (.picEmit false false) (picState .emit (pulseOf 1 0x0003D8 9 0x0BD25) 0x0C 0 0))
      (fun t => t.picPorts.emitted == some ⟨pulseOf 1 0x0003D8 9 0x0BD25, 0x0C⟩ && t.pic.lastTimestamp == 0x0003D8
        && t.pic.lastWord == 0x0BD25 && t.pic.state == .idle) = true := by decide
theorem test_pic_hold_emit :
    nextHas (exec (.picHoldEmit true false) (picState .emit (pulseOf 1 0x0003D8 9 0x0BD25) 0x0C 0 0))
      (fun t => t.pic.lastWord == 0x0BD25 && t.pic.state == .emit && t.picPorts.emitted == none) = true := by decide

theorem test_pic_accept :
    nextHas (exec (.picAccept true false (pulseOf 1 0x0003D8 9 0x0BD25)) State.reset)
      (fun t => t.pic.cur == pulseOf 1 0x0003D8 9 0x0BD25 && t.pic.state == .predictWindow) = true := by decide

/-! ### Reset and the tick: R220, R199, R234 -/

theorem test_core_reset :
    nextHas (exec .coreReset (setParams (suState 1 2 3 4) { Params.atReset with lastWordReset := 0x00ABC }))
      (fun t => t.su.state == .idle && t.pic.lastWord == 0x00ABC && !t.picPorts.pulseReady) = true := by decide

/-- Two lines and the controller act in one tick: an offer on line 0, an envelope end on line 3, a pulse accepted. -/
theorem test_tick_all_blocks :
    nextHas
      (step ((accState 0x0015E).pushTick
        (((TickInputs.idle.baOffer 0 true).baReset 3).picPulse (pulseOf 1 0x0003D8 9 0x0BD25))))
      (fun t => t.accs[0] == 0x002BD && t.accs[3] == 0x00001 && t.pic.state == .predictWindow && t.script == []) = true := by
  decide

/-- The tick after `PIC.ACCEPT`: the controller's request is the Search Unit's start (R166, R234). -/
theorem test_tick_start :
    nextHas (step (picState .predictWindow (pulseOf 1 0x0003D8 9 0x0BD25) 0 0x000100 0x1FE72))
      (fun t => t.su.state == .searching && t.su.ticksRemaining == 184 && t.su.target == 0x0BD25
        && t.pic.state == .searching) = true := by decide

/-! ### Stimulus notation (R83) -/

theorem test_offer_word :
    ((offerWord 0 0x0BD25).map fun t => t.ba[0].bitIn) =
      [false, true, false, true, true, true, true, false, true, false, false, true, false, false, true, false, true] := by
  decide

/-! ### Witnesses: the hypotheses of each obligation met together, at the ends of their ranges -/

/-- DecodeDropsNoVectorBit; EveryVectorSelectsItsRow at the largest vector of format PIC. -/
theorem test_witness_vectors :
    decode ⟨.pic, 0x1F, .zero⟩ = .ok (.picEmit true true) ∧ Block.pic ≠ .core ∧
      (0x1F : BitVec 8).toNat < 2 ^ Block.pic.format.width := by decide

/-- AdvanceIsBijective and CatalogEntriesAreListedDistinctAndEven: a polynomial with bit 16, two states, a state that is not 0, equal
entries. -/
theorem test_witness_generator :
    (0x10000 : Word).getLsbD 16 = true ∧ (0x00000 : Word) ≠ 0x00001 ∧ (0x00001 : Word) ≠ 0 ∧ catRead 31 = catRead 31 := by
  decide

/-- BaHoldKeepsRegister, BaOfferShiftsUnlessFull, BaTakeEmptiesFullRegister, BaTakeOfferJudgesPreState, BaResetEmptiesRegister:
an existing line with the greatest register that is not full, and with the least that is. -/
theorem test_witness_line :
    (accState 0x1FFFF).params.hasLine 0 = true ∧ (accState 0x1FFFF).accs[(0 : Line)].getLsbD 17 = false ∧
      (accState 0x20000).params.hasLine 0 = true ∧ (accState 0x20000).accs[(0 : Line)].getLsbD 17 = true ∧
      State.reset.params.hasLine 3 = true := by decide

/-- AbsentLineIsRefused: the fourth line of a machine with three. -/
theorem test_witness_absent_line :
    (setParams State.reset threeLines).params.hasLine 3 = false ∧
      (setParams State.reset threeLines).params.hasLine 2 = true := by decide

/-- OffersAssembleWordInOrder with 17 bits; IncompletePulseVanishes with 16. -/
theorem test_witness_offers :
    State.reset.params.hasLine 0 = true ∧ State.reset.accs[(0 : Line)] = emptyAcc ∧
      (List.replicate 17 true).length ≤ 17 ∧ (List.replicate 16 true).length < 17 := by decide

/-- FullRegisterIsNeverOverwritten; StaleWordNeverSurfaces with 16 bits after the reset. -/
theorem test_witness_full :
    (accState 0x2BD25).params.hasLine 0 = true ∧ (accState 0x2BD25).accs[(0 : Line)].getLsbD 17 = true ∧
      (List.replicate 16 false).length < 17 := by decide

/-- SuStartSeedsEverySlot, TicksAgreeWithEpisode: the least and the greatest budget at `CW` = 10. -/
theorem test_witness_budget : 1 ≤ 1 ∧ 1 ≤ State.reset.params.maxB ∧ 1 ≤ 1023 ∧ 1023 ≤ State.reset.params.maxB := by decide

/-- SuStepContinues: in the window without a hit, at the least counter that goes on, and outside the window. -/
theorem test_witness_continue :
    2 ≤ (suState 0x00001 0x00010 2 9).su.ticksRemaining ∧
      (∀ i : Slot, adv (catRead i) (suState 0x00001 0x00010 2 9).su.slots[i] ≠ (suState 0x00001 0x00010 2 9).su.target) ∧
      2 ≤ (suState 0x00001 0x00002 5 9).su.ticksRemaining ∧ ¬(suState 0x00001 0x00002 5 9).su.ticksRemaining ≤ 4 := by decide

/-- SuStepMatchesLowestSlot: a hit by slot 2 and by no lower one, in the first and in the last tick of the window (V-SU-4). -/
theorem test_witness_match :
    (∀ r ∈ [1, 4], 1 ≤ (suState 1 3 r 9).su.ticksRemaining ∧ (suState 1 3 r 9).su.ticksRemaining ≤ 4) ∧
      adv (catRead 2) (suState 1 3 1 9).su.slots[(2 : Slot)] = (suState 1 3 1 9).su.target ∧
      ∀ j : Slot, j < 2 → adv (catRead j) (suState 1 3 1 9).su.slots[j] ≠ (suState 1 3 1 9).su.target := by decide

/-- SuStepTimesOut. -/
theorem test_witness_timeout :
    (suState 0x00001 0x00010 1 9).su.ticksRemaining = 1 ∧
      ∀ i : Slot, adv (catRead i) (suState 0x00001 0x00010 1 9).su.slots[i] ≠ (suState 0x00001 0x00010 1 9).su.target := by
  decide

/-- TicksAgreeWithEpisode, EpisodeFindsLeastOffset: an episode that finds and one that does not (V-SU-3, V-SU-5). -/
theorem test_witness_episode :
    (episode 0x1FE72 0x1FCE5 2).found = some 0 ∧ (episode 0x1FE72 0x0BD25 1).found = none ∧
      0 < (episode 0x1FE72 0x0BD25 1).ticks := by decide

/-- ZeroWordEpisodes at the least budget, with words that are not 0. -/
theorem test_witness_zero_words : 1 ≤ 1 ∧ (0x0BD25 : Word) ≠ 0 ∧ (0x1FE72 : Word) ≠ 0 := by decide

/-- SlotVectorsAgreeWithSearchUnit: a Search Unit's operation that answers next. -/
theorem test_witness_slot_vectors : ∃ u, exec .suStep (suState 1 3 2 2) = .next u := ⟨_, rfl⟩

/-- PicAcceptTakesRecord at the greatest pulse width. -/
theorem test_witness_accept :
    (pulseOf 3 0xFFFFFF (2 ^ 32 - 1) 0).pulseWidth < 2 ^ State.reset.params.pwBits := by decide

def predictState (ts : Timestamp) : State := picState .predictWindow (pulseOf 0 ts 7 0x0ABCD) 0 0 0x0BD25

/-- PicPredictSkipsOutOfRange at the least difference, PicPredictRequestsSearch at the greatest, OutOfRangeIsAboveMaxBudget. -/
theorem test_witness_predict :
    (predictState 4088).pic.state = .predictWindow ∧
      2 ^ (predictState 4088).params.cw - 1 <
        predictedBudget (predictState 4088).pic.cur.timestamp (predictState 4088).pic.lastTimestamp ∧
      (predictState 4087).pic.state = .predictWindow ∧
      predictedBudget (predictState 4087).pic.cur.timestamp (predictState 4087).pic.lastTimestamp ≤
        2 ^ (predictState 4087).params.cw - 1 ∧
      (predictState 4087).su.state = .idle ∧ TickInputs.idle.start = none ∧ startValid (predictState 4087) = true ∧
      (predictState 4087).params.cw = 10 ∧ outOfRange (predictState 4088) = true ∧ outOfRange (predictState 4087) = false := by
  decide

/-- PicHoldEmitHoldsRecord, PicEmitHandsRecordOver. -/
theorem test_witness_emit : matchedState.pic.state = .emit := by decide

def offered (ts : Timestamp) : State := State.reset.pushTick (TickInputs.idle.picPulse (pulseOf 1 ts 9 0x0BD25))

/-- PulseGetsTheCodeOfItsEpisode: a pulse in range (4087) and one out of range (4088). -/
theorem test_witness_pulse (ts : Timestamp) :
    (pulseOf 1 ts 9 0x0BD25).pulseWidth < 2 ^ (offered ts).params.pwBits ∧ (offered ts).pic.state = .idle ∧
      (offered ts).su.state = .idle ∧ (fetchTick (offered ts)).pulse = some (pulseOf 1 ts 9 0x0BD25) ∧
      ∀ t ∈ (offered ts).script, t.rst = false ∧ t.start = none := by
  refine ⟨(by decide : 9 < 2 ^ 32), rfl, rfl, rfl, fun t ht => ?_⟩
  obtain rfl : t = TickInputs.idle.picPulse (pulseOf 1 ts 9 0x0BD25) := by simpa [offered, State.reset] using ht
  exact ⟨rfl, rfl⟩

theorem test_witness_pulse_range :
    predictedBudget 4087 (offered 4087).pic.lastTimestamp ≤ (offered 4087).params.maxB ∧
      (offered 4088).params.maxB < predictedBudget 4088 (offered 4088).pic.lastTimestamp := by decide

/-- ResetTickRunsOnlyReset. -/
theorem test_witness_reset_tick : (fetchTick (State.reset.pushTick TickInputs.idle.coreRst)).rst = true := by decide

def requested (budget : Nat) : State := State.reset.pushTick (TickInputs.idle.suStart 0x1FE72 0x0BD25 budget)

/-- StepRunsDecodedOperations, first clause. -/
theorem test_witness_step_next :
    ∃ is, tickOps State.reset = .ok is ∧ nextHas (runOps is State.reset) (fun t => t.pic.state == .idle) = true := by
  exact ⟨[.baHold 0 false, .baHold 1 false, .baHold 2 false, .baHold 3 false, .suHold, .picWaitPulse false false],
    by decide, by decide⟩

/-- StepRunsDecodedOperations, second clause; TickCompletesUnlessZeroBudget, first clause. -/
theorem test_witness_step_refused :
    (fetchTick (requested 0)).rst = false ∧ (requested 0).su.state = .idle ∧
      startPort (requested 0) (fetchTick (requested 0)) = some ⟨0x1FE72, 0x0BD25, 0⟩ ∧
      refusedAs (step (requested 0)) .zeroBudget = true := by decide

/-- SearchUnitSelection, each clause. -/
theorem test_witness_su_selection :
    State.reset.su.state = .idle ∧ startPort State.reset .idle = none ∧
      startPort State.reset (TickInputs.idle.suStart 1 2 3) = some ⟨1, 2, 3⟩ ∧
      (suState 1 2 3 4).su.state = .searching ∧ startPort (suState 1 2 3 4) .idle = none ∧
      startPort (suState 1 2 3 4) (TickInputs.idle.suStart 1 2 3) = some ⟨1, 2, 3⟩ := by decide

def picWith (st : PicState) (su : SuState) : State :=
  (picState st zeroPulse 0 0 0).setSu { State.reset.su with state := su }

/-- ControllerSelection, each clause. -/
theorem test_witness_pic_selection :
    TickInputs.idle.pulse = none ∧ (TickInputs.idle.picPulse zeroPulse).pulse = some zeroPulse ∧
      (picWith .idle .idle).pic.state = .idle ∧ (picWith .predictWindow .idle).pic.state = .predictWindow ∧
      (picWith .searching .searching).pic.state = .searching ∧ (picWith .searching .searching).su.state = .searching ∧
      (picWith .searching .idle).pic.state = .searching ∧ (picWith .searching .idle).su.state = .idle ∧
      (picWith .emit .idle).pic.state = .emit ∧ TickInputs.idle.sinkReady = false ∧
      TickInputs.idle.picSink.sinkReady = true := by decide

/-- TickIsSimultaneous, TickCompletesUnlessZeroBudget second clause, AssembledCoreAlwaysCompletes: a tick of a machine with three
lines that answers next. -/
theorem test_witness_tick :
    (fetchTick (setParams State.reset threeLines)).rst = false ∧
      (fetchTick (setParams State.reset threeLines)).start = none ∧
      nextHas (step (setParams State.reset threeLines)) (fun t => t.pic.state == .idle) = true := by decide

/-- StepKeepsSearchInv, StepKeepsSentinelsAndWidths: a running episode on its second tick. -/
theorem test_witness_search_inv :
    SearchInv (suState 0x00001 0x00002 9 9) ∧ AccsHoldSentinel (suState 0x00001 0x00002 9 9) ∧
      RegistersFit (suState 0x00001 0x00002 9 9) ∧ ∃ t, step (suState 0x00001 0x00002 9 9) = .next t := by
  refine ⟨⟨fun _ => ⟨by decide, by decide, by decide, by decide, fun i => ?_⟩, fun h => absurd h (by decide)⟩, ?_,
    ⟨by decide, by decide, by decide⟩, ?_⟩
  · revert i; decide
  · intro line; revert line; decide
  · obtain ⟨t, ht, -⟩ := next_of_nextHas (o := step (suState 0x00001 0x00002 9 9))
      (p := fun t => t.su.ticksRemaining == 8) (by decide)
    exact ⟨t, ht⟩

/-- StepKeepsCoreInv, EmittedCodesAreLegal, EmittedIndexIsATrueMatch: a true match in Emit with the sink ready. -/
theorem test_witness_core_inv :
    CoreInv (matchedState.pushTick TickInputs.idle.picSink) ∧
      ∃ t, step (matchedState.pushTick TickInputs.idle.picSink) = .next t ∧
        t.picPorts.emitted = some ⟨pulseOf 1 0 9 0x00002, 0x00⟩ ∧ (0x00 : PolyIndex) ≠ 0x3F := by
  refine ⟨⟨?_, ?_, ⟨by decide, by decide, by decide⟩, ⟨fun h => absurd h (by decide), fun _ => ⟨by decide, by decide, by decide,
    ?_, 0, by decide, by decide, ?_⟩⟩, fun h => absurd h (by decide), fun h => absurd h (by decide),
    fun _ => .inr ⟨by decide, by decide, by decide⟩⟩, ?_⟩
  · intro t ht
    obtain rfl : t = TickInputs.idle.picSink := by simpa [matchedState, picState, State.reset] using ht
    decide
  · intro line; revert line; decide
  · intro i; revert i; decide
  · intro j; revert j; decide
  · obtain ⟨t, ht, hp⟩ := next_of_nextHas (o := step (matchedState.pushTick TickInputs.idle.picSink))
      (p := fun t => t.picPorts.emitted == some ⟨pulseOf 1 0 9 0x00002, 0x00⟩) (by decide)
    exact ⟨t, ht, by simpa using hp, by decide⟩

/-- ControllerSerialisesPulses: a record consumed in Idle, and a record in hand that leaves. -/
theorem test_witness_serialises :
    (fetchTick (offered 5)).rst = false ∧
      nextHas (step (offered 5)) (fun t => t.picPorts.consumed == some (pulseOf 1 5 9 0x0BD25)) = true ∧
      (fetchTick matchedState).rst = false ∧ matchedState.pic.state ≠ .idle ∧
      nextHas (step matchedState) (fun t => t.pic.state == .emit) = true := by decide

/-! ### The duties of the environment can be kept (R225 to R231) -/

/-- Line 0: a bit, then the end of the envelope; later a full word taken as its envelope ends. The pulse of that word follows. -/
def dutyState : State :=
  { accState 0x2BD25 with
    script :=
      [ TickInputs.idle.withBa 0 { envEnd := true, take := true, bitValid := false, bitIn := false },
        (TickInputs.idle.baOffer 0 true).picPulse (pulseOf 0 0x000100 5 0x0BD25),
        TickInputs.idle.baReset 0 ] }

def dutyDemod (line : Line) : Demodulator :=
  if line = 0 then { channel := 0, envelopes := [⟨0, 0⟩, ⟨1, 2⟩], stored := [1] }
  else { channel := line.val, envelopes := [], stored := [] }

/-- DemodulatorsRespect: an accepted bit, an envelope that ends on success and one that ends early. -/
theorem test_duty_demodulators : DemodulatorsRespect dutyState 3 dutyDemod := by
  refine ⟨by decide, fun line => ⟨?_, ?_, ?_, ?_⟩⟩
  · revert line
    unfold CountsStoredBits
    decide
  all_goals revert line; decide

/-- A demodulator that counts the rejected bit of a full accumulator as stored breaks its duty. -/
theorem test_duty_rejected_bit :
    ¬CountsStoredBits ((accState 0x2BD25).pushTick (TickInputs.idle.baOffer 0 true)) 1 0
      { channel := 0, envelopes := [], stored := [0] } := by
  unfold CountsStoredBits
  decide

/-- An `env_end` inside a physical pulse breaks the duty. -/
theorem test_duty_early_end :
    ¬EndsEachPulseOnce dutyState 3 0 { channel := 0, envelopes := [⟨0, 2⟩], stored := [] } := by
  unfold EndsEachPulseOnce
  decide

/-- TimingUnitRespects: the word's record is measured, presented and consumed; the envelope without a word gives no record. -/
theorem test_duty_timing_unit :
    TimingUnitRespects dutyState 3 dutyDemod
      [⟨0, ⟨0, 0⟩, 0x000100, some (pulseOf 0 0x000100 5 0x0BD25)⟩, ⟨0, ⟨1, 2⟩, 0x000200, none⟩] := by
  refine ⟨by decide, by decide, fun m hm => ?_, fun k hk r hr => ?_, by decide⟩
  · rcases List.mem_cons.1 hm with rfl | hm
    · exact ⟨by decide, by decide, by decide, by decide, .inl (by decide)⟩
    · obtain rfl := List.mem_singleton.1 hm
      exact ⟨by decide, (by decide : wordsIn dutyState 0 ⟨1, 2⟩ = [])⟩
  · have h : ∀ k, k < 3 → (inputsAt dutyState k).pulse = none ∨
        (inputsAt dutyState k).pulse = some (pulseOf 0 0x000100 5 0x0BD25) := by decide
    rcases h k hk with h | h <;> rw [h] at hr <;> cases hr
    decide

/-- A record with another word than the one taken is not right. -/
theorem test_duty_wrong_word :
    ¬Measurement.Right dutyState ⟨0, ⟨0, 0⟩, 0x000100, some (pulseOf 0 0x000100 5 0x0BD24)⟩ := by
  rintro ⟨-, -, -, h⟩
  exact absurd h (by decide)

/-- Two episodes of one tick, the second started as the first has ended. -/
def twoEpisodes : State :=
  { State.reset with script := [TickInputs.idle.suStart 1 2 1, .idle, TickInputs.idle.suStart 1 3 1] }

/-- CallerReads: two accepted starts of one-tick episodes, the result read in the tick of the second. -/
theorem test_duty_caller_reads : CallerReads twoEpisodes 3 [2] := by
  have started : ∀ j, j < 3 → startAcceptedAt twoEpisodes j = true → j = 0 ∨ j = 2 := by decide
  intro j hj i hi accepted_i accepted_j
  have := started i (by omega) accepted_i
  have := started j hj accepted_j
  exact ⟨2, by decide, by omega, by omega, by decide⟩

/-- MergeLayerHolds: a record presented while another is in Emit is presented again. -/
theorem test_duty_merge_layer :
    MergeLayerHolds { matchedState with script :=
      [TickInputs.idle.picPulse (pulseOf 1 5 9 3), TickInputs.idle.picPulse (pulseOf 1 5 9 3)] } := by
  rintro t rest pulse h hp -
  obtain ⟨rfl, rfl⟩ := List.cons.inj h
  exact ⟨_, _, rfl, hp⟩

/-- SinkEventuallyReady: the record in Emit is taken in the second tick. -/
theorem test_duty_sink :
    outValidAt { matchedState with script := [.idle, TickInputs.idle.picSink] } 0 = true ∧
      outValidAt { matchedState with script := [.idle, TickInputs.idle.picSink] } 1 = true ∧
      (inputsAt { matchedState with script := [.idle, TickInputs.idle.picSink] } 1).sinkReady = true := by decide

end Sys2Proof.Tests
end

section
/-! PROOFS. A tick taken apart (R12, R13, R61). An operation of the Search Unit or of the controller reads its own block's
registers and the parameters only, so the writes of the operations run before it do not change what it does. -/

namespace Sys2Proof.Machine

/-! ### The operations selected in a tick without reset -/

/-- The Search Unit's vector always selects one of the Search Unit's operations (R73). -/
theorem decode_suEncoded (s : State) (ins : TickInputs) :
    ∃ i, decode (suEncoded s ins) = .ok i ∧ (encode i).block = .su := by
  refine ⟨_, decode_su _ _ _, ?_⟩
  cases busy s.su <;> cases (startPort s ins).isSome <;> rfl

/-- The controller's vector always selects one of the controller's operations (R74). -/
theorem decode_picEncoded (s : State) (ins : TickInputs) :
    ∃ i, decode (picEncoded s ins) = .ok i ∧ (encode i).block = .pic := by
  refine ⟨_, decode_pic _ _ _ _ _ _, ?_⟩
  cases s.pic.state
  case idle => cases ins.pulse.isSome <;> rfl
  case predictWindow => rfl
  case searching => cases busy s.su <;> rfl
  case emit => cases ins.sinkReady <;> rfl

/-- Without a reset a tick runs the lines' operations, then the Search Unit's, then the controller's. -/
theorem tickOps_of_decode {s : State} {op : Line → Instr} {suOp picOp : Instr} (hrst : (fetchTick s).rst = false)
    (hop : ∀ line, decode (baEncoded (fetchTick s) line) = .ok (op line))
    (hsu : decode (suEncoded s (fetchTick s)) = .ok suOp) (hpic : decode (picEncoded s (fetchTick s)) = .ok picOp) :
    tickOps s = .ok ((linesOf s.params).map op ++ [suOp, picOp]) := by
  rw [tickOps, tickEncoded, hrst, if_neg Bool.false_ne_true]
  refine decodeAll_of_ok (List.rel_append ?_ (.cons hsu (.cons hpic .nil)))
  rw [List.forall₂_map_left_iff, List.forall₂_map_right_iff]
  exact List.forall₂_same.2 fun line _ => hop line

/-- A step that answers next has run all its operations and moved the script on. -/
theorem step_next {s t : State} {ops : List Instr} (hops : tickOps s = .ok ops) (h : step s = .next t) :
    ∃ u, runOps ops s = .next u ∧ t = u.popScript := by
  rw [step, tick, hops] at h
  cases hrun : runOps ops s with
  | next u => simp only [hrun] at h; cases h; exact ⟨u, rfl, rfl⟩
  | fault r => simp only [hrun] at h; cases h
  | refused r => simp only [hrun] at h; cases h

theorem runOps_cons_next {i : Instr} {rest : List Instr} {s t : State} (h : runOps (i :: rest) s = .next t) :
    ∃ u, exec i s = .next u ∧ runOps rest u = .next t := by
  rw [runOps] at h
  cases hexec : exec i s with
  | next u => simp only [hexec] at h; exact ⟨u, rfl, h⟩
  | fault r => simp only [hexec] at h; cases h
  | refused r => simp only [hexec] at h; cases h

/-! ### An operation reads its own block only -/

/-- What a Search Unit operation writes to its block depends on the parameters, that block and the counter of draws. -/
theorem exec_su_local {i : Instr} {s v w : State} (hi : (encode i).block = .su) (hparams : v.params = s.params)
    (hsu : v.su = s.su) (hdraws : v.draws = s.draws) (h : exec i v = .next w) :
    OnlySu v w ∧ ∃ u, exec i s = .next u ∧ w.su = u.su ∧ w.suPorts = u.suPorts ∧ w.draws = u.draws := by
  have hsearch : (searchTick v).su = (searchTick s).su ∧ (searchTick v).suPorts = (searchTick s).suPorts ∧
      (searchTick v).draws = (searchTick s).draws := by
    simp [searchTick_eq, tickDown, hparams, hsu, hdraws]
  cases i with
  | suHold =>
    cases h
    exact ⟨⟨rfl, rfl, rfl, rfl, rfl, rfl, rfl⟩, _, rfl, hsu, by simp [hsu], hdraws⟩
  | suStart request =>
    simp only [exec, execSuStart, hparams] at h ⊢
    split at h
    · cases h
    · next hbudget =>
      cases h
      exact ⟨⟨rfl, rfl, rfl, rfl, rfl, rfl, rfl⟩, _, if_neg hbudget, by simp [beginEpisode_eq, hparams, hsu, hdraws]⟩
  | suStep => cases h; exact ⟨searchTick_only v, _, rfl, hsearch⟩
  | suStepReject request => cases h; exact ⟨searchTick_only v, _, rfl, hsearch⟩
  | _ => cases hi

/-- The controller's ports are functions of the parameters and of its own registers (R160). -/
theorem picPortsOf_congr {s v : State} (hparams : v.params = s.params) (hpic : v.pic = s.pic)
    (consumed : Option PulseRecord) (emitted : Option IdentifiedPulse) :
    picPortsOf v consumed emitted = picPortsOf s consumed emitted := by
  simp [picPortsOf, startValid, outOfRange, startOperands, outRecord, hparams, hpic]

/-- What a controller operation writes to its block depends on the parameters and that block. -/
theorem exec_pic_local {i : Instr} {s v w : State} (hi : (encode i).block = .pic) (hparams : v.params = s.params)
    (hpic : v.pic = s.pic) (h : exec i v = .next w) :
    OnlyPic v w ∧ ∃ u, exec i s = .next u ∧ w.pic = u.pic ∧ w.picPorts = u.picPorts := by
  have hports := picPortsOf_congr hparams hpic
  have hrange : outOfRange v = outOfRange s := by simp [outOfRange, hparams, hpic]
  have hout : outRecord v = outRecord s := by simp [outRecord, hpic]
  cases i with
  | picWaitPulse | picAccept | picPredict | picWaitSearch | picCollect | picHoldEmit | picEmit =>
    cases h
    exact ⟨⟨rfl, rfl, rfl, rfl, rfl, rfl, rfl, rfl⟩, _, rfl, by simp [hparams, hpic, hrange], by simp [hports, hparams, hout]⟩
  | _ => cases hi

/-! ### The tick -/

/-- Settles O52: the lines' operations leave the Search Unit and the controller as they were, and the Search Unit's operation
leaves the controller so, hence each operation finds its block as the pre-state has it. -/
theorem tickIsSimultaneous : Obligations.TickIsSimultaneous := by
  intro s t hrst hstep
  choose op hop heff using exec_ba_selected (fetchTick s)
  obtain ⟨suOp, hsuOp, hsuBlock⟩ := decode_suEncoded s (fetchTick s)
  obtain ⟨picOp, hpicOp, hpicBlock⟩ := decode_picEncoded s (fetchTick s)
  obtain ⟨a, hlines, hpresent, habsent, hframe⟩ := runOps_lines op _ heff (linesOf s.params) (linesOf_nodup _) s
    fun line => (mem_linesOf _ line).1
  obtain ⟨c, hrun, rfl⟩ := step_next (tickOps_of_decode hrst hop hsuOp hpicOp) hstep
  rw [runOps_append_of_next hlines] at hrun
  obtain ⟨b, hexecSu, hrun⟩ := runOps_cons_next hrun
  obtain ⟨_, hexecPic, hrun⟩ := runOps_cons_next hrun
  cases hrun
  have hparamsA : a.params = s.params := by rw [hframe]
  have hpicA : a.pic = s.pic := by rw [hframe]
  obtain ⟨⟨paramsB, accsB, picB, scriptB, baPortsB, -, sgPortB⟩, u, hu, hsuU, hsuPortsU, hdrawsU⟩ :=
    exec_su_local hsuBlock hparamsA (by rw [hframe]) (by rw [hframe]) hexecSu
  obtain ⟨⟨paramsC, accsC, suC, scriptC, baPortsC, suPortsC, sgPortC, drawsC⟩, w, hw, hpicW, hpicPortsW⟩ :=
    exec_pic_local hpicBlock (paramsB.trans hparamsA) (picB.trans hpicA) hexecPic
  have haccs : c.accs = a.accs := accsC.trans accsB
  have hbaPorts : c.baPorts = a.baPorts := baPortsC.trans baPortsB
  refine ⟨⟨suOp, u, hsuOp, hu, suC.trans hsuU, suPortsC.trans hsuPortsU, drawsC.trans hdrawsU⟩,
    ⟨picOp, w, hpicOp, hw, hpicW, hpicPortsW⟩, fun line hline => ?_, fun line hline => ?_,
    (paramsC.trans paramsB).trans hparamsA, ?_, ?_⟩
  · have hnext := onLine_of_hasLine line (baEffectOf (fetchTick s).ba[line]) s hline
    obtain ⟨hacc, hports⟩ := onLine_self hnext
    obtain ⟨haccA, hportsA⟩ := hpresent line ((mem_linesOf _ _).2 hline)
    refine ⟨op line, _, hop line, (heff line s).trans hnext, ?_, ?_⟩
    · rw [State.popScript_accs, haccs, haccA, hacc]
    · rw [State.popScript_baPorts, hbaPorts, hportsA, hports]
  · have hnot : line ∉ linesOf s.params := by simp [mem_linesOf, hline]
    simpa [haccs, hbaPorts] using habsent line hnot
  · rw [State.popScript_script, scriptC, scriptB, hframe]
  · rw [State.popScript_sgPort, sgPortC, sgPortB, hframe]

end Sys2Proof.Machine
end

section
/-! PROOFS. What one step does to each block, said once: a reset writes the reset values, and without a reset the Search Unit, the
controller and every accumulator make one of the moves listed here (R111, R131 to R138, R161 to R171). -/

namespace Sys2Proof.Machine

/-! ### A tick with reset -/

/-- A reset tick runs `CORE.RESET` and nothing else (R75). -/
theorem step_of_rst {s t : State} (hrst : (fetchTick s).rst = true) (hstep : step s = .next t) :
    ∃ u, exec .coreReset s = .next u ∧ t = u.popScript := by
  have hops : tickOps s = .ok [.coreReset] := by
    rw [tickOps, tickEncoded, hrst, if_pos rfl]
    exact decodeAll_of_ok (.cons (decode_core _) .nil)
  obtain ⟨u, hrun, rfl⟩ := step_next hops hstep
  obtain ⟨_, hexec, hrun⟩ := runOps_cons_next hrun
  cases hrun
  exact ⟨_, hexec, rfl⟩

/-- The registers after a reset tick (R34, R220). -/
theorem step_registers_of_rst {s t : State} (hrst : (fetchTick s).rst = true) (hstep : step s = .next t) :
    t.accs = Vector.replicate 4 emptyAcc ∧ t.su = resetSu s.params s.draws ∧ t.pic = resetPic s.params s.draws := by
  obtain ⟨u, hexec, rfl⟩ := step_of_rst hrst hstep
  cases hexec
  exact ⟨rfl, rfl, rfl⟩

/-- No step writes the parameters (R11). -/
theorem step_params {s t : State} (hstep : step s = .next t) : t.params = s.params := by
  cases hrst : (fetchTick s).rst with
  | true =>
    obtain ⟨u, hexec, rfl⟩ := step_of_rst hrst hstep
    cases hexec
    rfl
  | false =>
    obtain ⟨-, -, -, -, hparams, -⟩ := tickIsSimultaneous s t hrst hstep
    exact hparams

/-- Every step moves the script on by one tick (R82). -/
theorem step_script {s t : State} (hstep : step s = .next t) : t.script = s.script.tail := by
  cases hrst : (fetchTick s).rst with
  | true =>
    obtain ⟨u, hexec, rfl⟩ := step_of_rst hrst hstep
    cases hexec
    rfl
  | false =>
    obtain ⟨-, -, -, -, -, hscript, -⟩ := tickIsSimultaneous s t hrst hstep
    exact hscript

/-! ### The accumulators -/

/-- Without a reset an accumulator that exists takes the effect its inputs select (R111). -/
theorem step_acc_of_hasLine {s t : State} {line : Line} (hrst : (fetchTick s).rst = false) (hstep : step s = .next t)
    (hline : s.params.hasLine line = true) :
    t.accs[line] = (baEffectOf (fetchTick s).ba[line] s.accs[line]).acc := by
  obtain ⟨-, -, hpresent, -⟩ := tickIsSimultaneous s t hrst hstep
  obtain ⟨i, u, hi, hu, hacc, -⟩ := hpresent line hline
  obtain ⟨j, hj, heff⟩ := exec_ba_selected (fetchTick s) line
  obtain rfl : j = i := Except.ok.inj (hj.symm.trans hi)
  rw [heff] at hu
  exact hacc.trans (onLine_self hu).1

/-- Without a reset a line that has no accumulator keeps what stands in its place. -/
theorem step_acc_of_absent {s t : State} {line : Line} (hrst : (fetchTick s).rst = false) (hstep : step s = .next t)
    (hline : s.params.hasLine line = false) : t.accs[line] = s.accs[line] := by
  obtain ⟨-, -, -, habsent, -⟩ := tickIsSimultaneous s t hrst hstep
  exact (habsent line hline).1

/-! ### The Search Unit -/

/-- What a tick without reset does to the Search Unit's registers, with `port` on its start port (R73). -/
inductive SuMove (s : State) (port : Option StartRequest) (next : SuRegs) : Prop where
  /-- `SU.HOLD` (R131). -/
  | hold (hstate : s.su.state = .idle) (hport : port = none) (hnext : next = s.su)
  /-- `SU.START` (R132), of a budget that R144 does not refuse. -/
  | start (request : StartRequest) (hstate : s.su.state = .idle) (hport : port = some request)
      (hbudget : truncCw s.params request.tickBudget ≠ 0) (hnext : next = (beginEpisode request s).su)
  /-- `SU.STEP` and `SU.STEP_REJECT` (R133, R138). -/
  | search (hstate : s.su.state = .searching) (hnext : next = (searchTick s).su)

/-- An accepted start has a budget that R144 does not refuse. -/
theorem execSuStart_next {request : StartRequest} {s t : State} (h : execSuStart request s = .next t) :
    truncCw s.params request.tickBudget ≠ 0 ∧ t = beginEpisode request s := by
  rw [execSuStart] at h
  split at h
  · cases h
  · next hbudget => cases h; exact ⟨hbudget, rfl⟩

theorem step_suMove {s t : State} (hrst : (fetchTick s).rst = false) (hstep : step s = .next t) :
    SuMove s (startPort s (fetchTick s)) t.su := by
  obtain ⟨⟨i, u, hi, hu, hsu, -⟩, -⟩ := tickIsSimultaneous s t hrst hstep
  rw [suEncoded, decode_su] at hi
  cases hstate : s.su.state with
  | idle =>
    have hbusy : busy s.su = false := by simp [busy, hstate]
    cases hport : startPort s (fetchTick s) with
    | none =>
      rw [hbusy, hport] at hi
      cases hi
      cases hu
      exact .hold hstate rfl hsu
    | some request =>
      rw [hbusy, hport] at hi
      cases hi
      obtain ⟨hbudget, rfl⟩ := execSuStart_next hu
      exact .start request hstate rfl hbudget hsu
  | searching =>
    have hbusy : busy s.su = true := by simp [busy, hstate]
    rw [hbusy] at hi
    cases hport : (startPort s (fetchTick s)).isSome with
    | false | true =>
      rw [hport] at hi
      cases hi
      cases hu
      exact .search hstate hsu

/-! ### The controller -/

/-- What a tick without reset does to the controller's registers, with the inputs `ins` presented (R74). -/
inductive PicMove (s : State) (ins : TickInputs) (next : PicRegs) : Prop where
  /-- `PIC.WAIT_PULSE` (R161). -/
  | waitPulse (hstate : s.pic.state = .idle) (hpulse : ins.pulse = none) (hnext : next = s.pic)
  /-- `PIC.ACCEPT` (R162). -/
  | accept (pulse : PulseRecord) (hstate : s.pic.state = .idle) (hpulse : ins.pulse = some pulse)
      (hnext : next = { s.pic with
        cur := { pulse with pulseWidth := truncPw s.params pulse.pulseWidth }, state := .predictWindow })
  /-- `PIC.PREDICT` out of range: SKIP (R165). -/
  | skip (hstate : s.pic.state = .predictWindow) (hrange : outOfRange s = true) (hnext : next = degrade s.pic)
  /-- `PIC.PREDICT` in range: START (R166). -/
  | request (hstate : s.pic.state = .predictWindow) (hrange : outOfRange s = false)
      (hnext : next = { s.pic with state := .searching })
  /-- `PIC.WAIT_SEARCH` (R167). -/
  | waitSearch (hstate : s.pic.state = .searching) (hbusy : s.su.state = .searching) (hnext : next = s.pic)
  /-- `PIC.COLLECT` of a match (R168). -/
  | collectMatch (hstate : s.pic.state = .searching) (hbusy : s.su.state = .idle) (hfound : s.su.matched = true)
      (hnext : next = { s.pic with polyIndex := BitVec.zeroExtend 6 s.su.matchedIndex, state := .emit })
  /-- `PIC.COLLECT` of a timeout (R168). -/
  | collectTimeout (hstate : s.pic.state = .searching) (hbusy : s.su.state = .idle) (hfound : s.su.matched = false)
      (hnext : next = degrade s.pic)
  /-- `PIC.HOLD_EMIT` (R169). -/
  | holdEmit (hstate : s.pic.state = .emit) (hsink : ins.sinkReady = false) (hnext : next = emitLatch s.pic)
  /-- `PIC.EMIT` (R171). -/
  | emit (hstate : s.pic.state = .emit) (hsink : ins.sinkReady = true)
      (hnext : next = { emitLatch s.pic with state := .idle })

theorem step_picMove {s t : State} (hrst : (fetchTick s).rst = false) (hstep : step s = .next t) :
    PicMove s (fetchTick s) t.pic := by
  obtain ⟨-, ⟨i, u, hi, hu, hpic, -⟩, -⟩ := tickIsSimultaneous s t hrst hstep
  rw [picEncoded, decode_pic] at hi
  cases hstate : s.pic.state with
  | idle =>
    cases hpulse : (fetchTick s).pulse with
    | none =>
      rw [hstate, hpulse] at hi
      cases hi
      cases hu
      exact .waitPulse hstate hpulse hpic
    | some pulse =>
      rw [hstate, hpulse] at hi
      cases hi
      cases hu
      exact .accept pulse hstate hpulse hpic
  | predictWindow =>
    rw [hstate] at hi
    cases hi
    cases hu
    cases hrange : outOfRange s with
    | true => exact .skip hstate hrange (by simpa [hrange] using hpic)
    | false => exact .request hstate hrange (by simpa [hrange] using hpic)
  | searching =>
    cases hbusy : s.su.state with
    | idle =>
      rw [hstate, busy, hbusy] at hi
      cases hi
      cases hu
      cases hfound : s.su.matched with
      | true => exact .collectMatch hstate hbusy hfound (by simpa [hfound, polyIndexOf] using hpic)
      | false => exact .collectTimeout hstate hbusy hfound (by simpa [hfound] using hpic)
    | searching =>
      rw [hstate, busy, hbusy] at hi
      cases hi
      cases hu
      exact .waitSearch hstate hbusy hpic
  | emit =>
    cases hsink : (fetchTick s).sinkReady with
    | false =>
      rw [hstate, hsink] at hi
      cases hi
      cases hu
      exact .holdEmit hstate hsink hpic
    | true =>
      rw [hstate, hsink] at hi
      cases hi
      cases hu
      exact .emit hstate hsink hpic

end Sys2Proof.Machine
end

section
/-! PROOFS. The state's invariants, each kept by every step: sentinels and widths (R27 to R29), the Search Unit's episode and match
(R139, R136), and what ties the two blocks together in the assembled CORE (R33, R54). -/

namespace Sys2Proof.Machine

/-! ### The sentinels (R27) -/

/-- A bit shifted into a register that is not full pushes no 1 out, so the sentinel stays in it. -/
theorem shiftIn_ne_zero {acc : Acc} (b : Bool) (hfull : full acc = false) (hacc : acc ≠ 0) : shiftIn acc b ≠ 0 := by
  have hlt : acc.toNat < 2 ^ 17 := by
    by_contra h
    rw [(full_iff acc).2 (by omega)] at hfull
    cases hfull
  have hpos : acc.toNat ≠ 0 := fun h => hacc (BitVec.eq_of_toNat_eq h)
  have hbit : b.toNat ≤ 1 := Bool.toNat_le b
  have hshift := shiftIn_toNat acc b
  rw [Nat.mod_eq_of_lt (by omega)] at hshift
  intro hzero
  have hshifted : (shiftIn acc b).toNat = 0 := by rw [hzero]; rfl
  omega

theorem baShift_acc_ne_zero {acc : Acc} (b : Bool) (hacc : acc ≠ 0) : (baShift b acc).acc ≠ 0 := by
  cases hfull : full acc with
  | true => rwa [baShift_of_full b hfull]
  | false => rw [baShift_of_not_full b hfull]; exact shiftIn_ne_zero b hfull hacc

theorem emptyAcc_ne_zero : emptyAcc ≠ 0 := by decide

/-- Whatever a line's inputs are, a register that holds its sentinel holds one afterwards. -/
theorem baEffectOf_acc_ne_zero (c : BaInputs) {acc : Acc} (hacc : acc ≠ 0) : (baEffectOf c acc).acc ≠ 0 := by
  unfold baEffectOf
  split
  · exact emptyAcc_ne_zero
  split
  · exact emptyAcc_ne_zero
  split
  · exact baShift_acc_ne_zero _ hacc
  · exact hacc

theorem accsHoldSentinel_of_empty {s : State} (h : s.accs = Vector.replicate 4 emptyAcc) : AccsHoldSentinel s := by
  intro line
  simpa [h] using emptyAcc_ne_zero

theorem step_keeps_accsHoldSentinel {s t : State} (h : AccsHoldSentinel s) (hstep : step s = .next t) :
    AccsHoldSentinel t := by
  cases hrst : (fetchTick s).rst with
  | true => exact accsHoldSentinel_of_empty (step_registers_of_rst hrst hstep).1
  | false =>
    intro line
    cases hline : s.params.hasLine line with
    | true => rw [step_acc_of_hasLine hrst hstep hline]; exact baEffectOf_acc_ne_zero _ (h line)
    | false => rw [step_acc_of_absent hrst hstep hline]; exact h line

/-! ### The widths (R28, R29) -/

/-- The Search Unit's part of `RegistersFit`. -/
def SuRegs.Fit (p : Params) (su : SuRegs) : Prop := su.ticksRemaining < 2 ^ p.cw ∧ su.epBudget < 2 ^ p.cw

/-- The controller's part of `RegistersFit`. -/
def PicRegs.Fit (p : Params) (pic : PicRegs) : Prop := pic.cur.pulseWidth < 2 ^ p.pwBits

theorem registersFit_iff (s : State) : RegistersFit s ↔ s.su.Fit s.params ∧ s.pic.Fit s.params :=
  and_assoc.symm

/-- What a tick of a search does to the registers of its episode, whatever the outcome: the target and the record of the request
stay. -/
theorem searchTick_episode (s : State) :
    (searchTick s).su.slots = advanceSlots s.su.slots ∧ (searchTick s).su.ticksRemaining = tickDown s ∧
      (searchTick s).su.target = s.su.target ∧ (searchTick s).su.epStart = s.su.epStart ∧
      (searchTick s).su.epBudget = s.su.epBudget := by
  obtain ⟨hsu, -⟩ | ⟨i, hsu, -⟩ | ⟨hsu, -⟩ := searchTick_su_cases s <;> rw [hsu] <;> exact ⟨rfl, rfl, rfl, rfl, rfl⟩

theorem SuMove.fit {s : State} {port : Option StartRequest} {next : SuRegs} (hmove : SuMove s port next)
    (h : s.su.Fit s.params) : next.Fit s.params := by
  cases hmove with
  | hold _ _ hnext => exact hnext ▸ h
  | start request _ _ _ hnext => exact hnext ▸ ⟨truncCw_lt _ _, truncCw_lt _ _⟩
  | search _ hnext =>
    obtain ⟨hticks, hbudget⟩ := h
    obtain ⟨-, hticks', -, -, hbudget'⟩ := searchTick_episode s
    rw [hnext, SuRegs.Fit, hticks', hbudget']
    exact ⟨tickDown_lt hticks, hbudget⟩

/-- Only `PIC.ACCEPT` writes `cur`, and it writes what the port carries. -/
theorem PicMove.fit {s : State} {ins : TickInputs} {next : PicRegs} (hmove : PicMove s ins next)
    (h : s.pic.Fit s.params) : next.Fit s.params := by
  cases hmove with
  | accept pulse _ _ hnext => exact hnext ▸ truncPw_lt _ _
  | waitPulse _ _ hnext | skip _ _ hnext | request _ _ hnext | waitSearch _ _ hnext | collectMatch _ _ _ hnext
  | collectTimeout _ _ _ hnext | holdEmit _ _ hnext | emit _ _ hnext => exact hnext ▸ h

theorem step_keeps_registersFit {s t : State} (h : RegistersFit s) (hstep : step s = .next t) : RegistersFit t := by
  rw [registersFit_iff] at h ⊢
  obtain ⟨hsuFit, hpicFit⟩ := h
  rw [step_params hstep]
  cases hrst : (fetchTick s).rst with
  | true =>
    obtain ⟨-, hsu, hpic⟩ := step_registers_of_rst hrst hstep
    rw [hsu, hpic]
    exact ⟨⟨truncCw_lt _ _, truncCw_lt _ _⟩, truncPw_lt _ _⟩
  | false => exact ⟨(step_suMove hrst hstep).fit hsuFit, (step_picMove hrst hstep).fit hpicFit⟩

/-- Settles O56: a shift into a register that is not full keeps its sentinel, and every number is truncated where it is written. -/
theorem stepKeepsSentinelsAndWidths : Obligations.StepKeepsSentinelsAndWidths := fun _ _ haccs hfit hstep =>
  ⟨step_keeps_accsHoldSentinel haccs hstep, step_keeps_registersFit hfit hstep⟩

/-! ### The Search Unit's invariant (R139, R134, R136) -/

/-- The invariant speaks of the parameters and of the Search Unit's registers only. -/
theorem SearchInv.congr {s t : State} (h : SearchInv s) (hparams : t.params = s.params) (hsu : t.su = s.su) :
    SearchInv t := by
  simpa only [SearchInv, EpisodeRuns, MatchIsTrue, SlotsFollow, hparams, hsu] using h

/-- An Idle unit that reports nothing has nothing to keep. -/
theorem searchInv_of_idle_unmatched {s : State} (hstate : s.su.state = .idle) (hmatched : s.su.matched = false) :
    SearchInv s :=
  ⟨fun h => absurd (hstate.symm.trans h) (by decide), fun h => absurd (hmatched.symm.trans h) (by decide)⟩

/-- An accepted start begins an episode at offset 0, where each slot holds the start word itself. -/
theorem beginEpisode_searchInv {request : StartRequest} {s : State} (hbudget : truncCw s.params request.tickBudget ≠ 0) :
    SearchInv (beginEpisode request s) := by
  have hlt := truncCw_lt s.params request.tickBudget
  rw [beginEpisode_eq]
  refine ⟨fun _ => ⟨Nat.one_le_iff_ne_zero.2 hbudget, le_rfl, Nat.le_sub_one_of_lt hlt, rfl, fun i => ?_⟩,
    fun h => absurd h Bool.false_ne_true⟩
  simp only [seedSlots_get, Nat.sub_self]
  rfl

/-- A tick of a running episode takes every slot one step further along its polynomial, whatever the outcome. -/
theorem searchTick_slotsFollow {s : State} (hpos : 1 ≤ s.su.ticksRemaining) (hle : s.su.ticksRemaining ≤ s.su.epBudget)
    (h : SlotsFollow s) : SlotsFollow (searchTick s) := by
  have hoffset : s.su.epBudget - tickDown s = s.su.epBudget - s.su.ticksRemaining + 1 := by
    rw [tickDown_of_pos hpos]; omega
  obtain ⟨hslots, hticks, -, hstart, hbudget⟩ := searchTick_episode s
  intro i
  rw [hbudget, hticks, hstart, hoffset, hslots]
  exact advanceSlots_follow h i

theorem searchTick_searchInv {s : State} (hstate : s.su.state = .searching) (h : SearchInv s) :
    SearchInv (searchTick s) := by
  obtain ⟨hpos, hle, hmax, hunmatched, hfollow⟩ := h.1 hstate
  have hfollow' := searchTick_slotsFollow hpos hle hfollow
  have hdown := tickDown_of_pos hpos
  obtain ⟨-, hticks, -, -, hbudget⟩ := searchTick_episode s
  obtain ⟨hsu, hne, -⟩ | ⟨i, hsu, hwindow, hhit, hlowest⟩ | ⟨hsu, -⟩ := searchTick_su_cases s
  · refine ⟨fun _ => ?_, fun h => absurd h ?_⟩
    · rw [hticks, hbudget]
      exact ⟨by omega, by omega, hmax, by rw [hsu]; exact hunmatched, hfollow'⟩
    · rw [hsu]; simp [hunmatched]
  · refine ⟨fun h => absurd h (by simp [hsu]), fun _ => ?_⟩
    rw [hticks, hbudget]
    exact ⟨by rw [hsu], hwindow, by omega, hfollow', i, by simp [hsu], by simpa [hsu] using hhit,
      by simpa [hsu] using hlowest⟩
  · exact searchInv_of_idle_unmatched (by rw [hsu]) (by rw [hsu])

theorem step_keeps_searchInv {s t : State} (h : SearchInv s) (hstep : step s = .next t) : SearchInv t := by
  have hparams := step_params hstep
  cases hrst : (fetchTick s).rst with
  | true =>
    obtain ⟨-, hsu, -⟩ := step_registers_of_rst hrst hstep
    exact searchInv_of_idle_unmatched (by rw [hsu]; rfl) (by rw [hsu]; rfl)
  | false =>
    cases step_suMove hrst hstep with
    | hold _ _ hnext => exact h.congr hparams hnext
    | start request _ _ hbudget hnext => exact (beginEpisode_searchInv hbudget).congr hparams hnext
    | search hstate hnext => exact (searchTick_searchInv hstate h).congr hparams hnext

/-! ### The assembled CORE (R33) -/

theorem step_keeps_assembled {s t : State} (h : Assembled s) (hstep : step s = .next t) : Assembled t := by
  intro ins hins
  rw [step_script hstep] at hins
  exact h ins (List.mem_of_mem_tail hins)

theorem Assembled.fetchTick_start {s : State} (h : Assembled s) : (fetchTick s).start = none := by
  cases hscript : s.script with
  | nil => simp only [fetchTick, hscript]; rfl
  | cons ins rest =>
    simp only [fetchTick, hscript]
    exact h ins (hscript ▸ List.mem_cons_self)

/-- Without a second requester the start port carries the controller's request or none (R33, R160). -/
theorem startPort_of_no_other {s : State} {ins : TickInputs} (h : ins.start = none) :
    startPort s ins = if startValid s then some (startOperands s) else none := by
  cases hvalid : startValid s <;> simp [startPort, hvalid, h]

theorem startValid_iff (s : State) : startValid s = true ↔ s.pic.state = .predictWindow ∧ outOfRange s = false := by
  simp [startValid]

/-- In the assembled CORE an idle Search Unit that the controller asks nothing of is left alone. -/
theorem step_su_of_not_startValid {s t : State} (h : Assembled s) (hidle : s.su.state = .idle)
    (hvalid : ¬startValid s = true) (hrst : (fetchTick s).rst = false) (hstep : step s = .next t) : t.su = s.su := by
  have hport := startPort_of_no_other (s := s) h.fetchTick_start
  rw [if_neg hvalid] at hport
  cases step_suMove hrst hstep with
  | hold _ _ hnext => exact hnext
  | start request _ hsome => exact absurd (hport.symm.trans hsome) (by simp)
  | search hstate => exact absurd (hidle.symm.trans hstate) (by decide)

/-- In the assembled CORE an idle Search Unit starts on the controller's request in the tick the controller makes it (R166). -/
theorem step_su_of_startValid {s t : State} (h : Assembled s) (hidle : s.su.state = .idle)
    (hvalid : startValid s = true) (hrst : (fetchTick s).rst = false) (hstep : step s = .next t) :
    t.su = (beginEpisode (startOperands s) s).su := by
  have hport := startPort_of_no_other (s := s) h.fetchTick_start
  rw [if_pos hvalid] at hport
  cases step_suMove hrst hstep with
  | hold _ hnone => exact absurd (hport.symm.trans hnone) (by simp)
  | start request _ hsome _ hnext =>
    obtain rfl := Option.some.inj (hport.symm.trans hsome)
    exact hnext
  | search hstate => exact absurd (hidle.symm.trans hstate) (by decide)

theorem step_su_of_searching {s t : State} (hstate : s.su.state = .searching) (hrst : (fetchTick s).rst = false)
    (hstep : step s = .next t) : t.su = (searchTick s).su := by
  cases step_suMove hrst hstep with
  | hold hidle | start _ hidle => exact absurd (hidle.symm.trans hstate) (by decide)
  | search _ hnext => exact hnext

/-- A budget in range passes the port and the Search Unit's register untruncated (R164, R166). -/
theorem beginEpisode_startOperands_epBudget {s : State} (hrange : outOfRange s = false) :
    (beginEpisode (startOperands s) s).su.epBudget = predictedBudget s.pic.cur.timestamp s.pic.lastTimestamp := by
  have hle : predictedBudget s.pic.cur.timestamp s.pic.lastTimestamp ≤ s.params.maxB := by
    simpa [outOfRange] using hrange
  simp only [beginEpisode_eq, startOperands, truncCw_of_lt hle]

/-- The ties between the two blocks that `CoreInv` asks for. -/
def BlocksAgree (s : State) : Prop := SearchOwned s ∧ SearchIsCurrent s ∧ CodeIsTrue s

/-- While the controller is in Idle or PredictWindow, an idle Search Unit is all that `BlocksAgree` asks. -/
theorem blocksAgree_of_no_search {s : State} (hsu : s.su.state = .idle)
    (hpic : s.pic.state = .idle ∨ s.pic.state = .predictWindow) : BlocksAgree s := by
  refine ⟨fun h => absurd (hsu.symm.trans h) (by decide), fun h => ?_, fun h => ?_⟩ <;>
  · rw [h] at hpic
    simp at hpic

/-- In Emit an idle Search Unit and a true code are all that `BlocksAgree` asks. -/
theorem blocksAgree_of_emit {s : State} (hsu : s.su.state = .idle) (hpic : s.pic.state = .emit)
    (hcode : CodeIsTrue s) : BlocksAgree s :=
  ⟨fun h => absurd (hsu.symm.trans h) (by decide), fun h => absurd (hpic.symm.trans h) (by decide), hcode⟩

/-- In Searching the episode's being the one asked for is all that `BlocksAgree` asks. -/
theorem blocksAgree_of_searching {s : State} (hpic : s.pic.state = .searching) (hcurrent : SearchIsCurrent s) :
    BlocksAgree s :=
  ⟨fun _ => hpic, hcurrent, fun h => absurd (hpic.symm.trans h) (by decide)⟩

/-- The controller's moves one by one: each leaves the Search Unit idle and untouched but for the request, which starts the episode
asked for, and the wait, during which the episode goes on. -/
theorem step_keeps_blocksAgree {s t : State} (hassembled : Assembled s) (h : BlocksAgree s) (hstep : step s = .next t) :
    BlocksAgree t := by
  obtain ⟨howned, hcurrent, hcode⟩ := h
  cases hrst : (fetchTick s).rst with
  | true =>
    obtain ⟨-, hsu, hpic⟩ := step_registers_of_rst hrst hstep
    exact blocksAgree_of_no_search (by rw [hsu]; rfl) (.inl (by rw [hpic]; rfl))
  | false =>
    have hidle : s.pic.state ≠ .searching → s.su.state = .idle := fun hne => by
      cases hsu : s.su.state with
      | idle => rfl
      | searching => exact absurd (howned hsu) hne
    have hkept (hsu : s.su.state = .idle) (hvalid : ¬startValid s = true) : t.su = s.su ∧ t.su.state = .idle := by
      rw [step_su_of_not_startValid hassembled hsu hvalid hrst hstep]
      exact ⟨rfl, hsu⟩
    cases step_picMove hrst hstep with
    | waitPulse hstate _ hnext =>
      obtain ⟨-, hsuIdle⟩ := hkept (hidle (by simp [hstate])) (by simp [startValid_iff, hstate])
      exact blocksAgree_of_no_search hsuIdle (.inl (hnext ▸ hstate))
    | accept pulse hstate _ hnext =>
      obtain ⟨-, hsuIdle⟩ := hkept (hidle (by simp [hstate])) (by simp [startValid_iff, hstate])
      exact blocksAgree_of_no_search hsuIdle (.inr (by rw [hnext]))
    | skip hstate hrange hnext =>
      obtain ⟨-, hsuIdle⟩ := hkept (hidle (by simp [hstate])) (by simp [startValid_iff, hrange])
      exact blocksAgree_of_emit hsuIdle (by rw [hnext]; rfl) fun _ => .inl (by rw [hnext]; rfl)
    | request hstate hrange hnext =>
      have hsu := step_su_of_startValid hassembled (hidle (by simp [hstate])) ((startValid_iff s).2 ⟨hstate, hrange⟩)
        hrst hstep
      refine blocksAgree_of_searching (by rw [hnext]) fun _ => ?_
      rw [hsu, hnext]
      exact ⟨rfl, rfl, beginEpisode_startOperands_epBudget hrange⟩
    | waitSearch hstate hbusy hnext =>
      have hsu := step_su_of_searching hbusy hrst hstep
      obtain ⟨-, -, htarget, hstart, hbudget⟩ := searchTick_episode s
      refine blocksAgree_of_searching (hnext ▸ hstate) fun _ => ?_
      rw [hsu, hnext, htarget, hstart, hbudget]
      exact hcurrent hstate
    | collectMatch hstate hbusy hfound hnext =>
      obtain ⟨hsu, hsuIdle⟩ := hkept hbusy (by simp [startValid_iff, hstate])
      obtain ⟨htarget, -, -⟩ := hcurrent hstate
      refine blocksAgree_of_emit hsuIdle (by rw [hnext]) fun _ => .inr ?_
      rw [hsu, hnext]
      exact ⟨hfound, rfl, htarget⟩
    | collectTimeout hstate hbusy _ hnext =>
      obtain ⟨-, hsuIdle⟩ := hkept hbusy (by simp [startValid_iff, hstate])
      exact blocksAgree_of_emit hsuIdle (by rw [hnext]; rfl) fun _ => .inl (by rw [hnext]; rfl)
    | holdEmit hstate _ hnext =>
      obtain ⟨hsu, hsuIdle⟩ := hkept (hidle (by simp [hstate])) (by simp [startValid_iff, hstate])
      refine blocksAgree_of_emit hsuIdle (by rw [hnext]; exact hstate) fun _ => ?_
      rw [hsu, hnext]
      exact hcode hstate
    | emit hstate _ hnext =>
      obtain ⟨-, hsuIdle⟩ := hkept (hidle (by simp [hstate])) (by simp [startValid_iff, hstate])
      exact blocksAgree_of_no_search hsuIdle (.inl (by rw [hnext]))

/-- Settles O57: each clause is kept by the lemma about it. -/
theorem stepKeepsCoreInv : Obligations.StepKeepsCoreInv := by
  rintro s t ⟨hassembled, haccs, hfit, hsearch, hblocks⟩ hstep
  exact ⟨step_keeps_assembled hassembled hstep, step_keeps_accsHoldSentinel haccs hstep,
    step_keeps_registersFit hfit hstep, step_keeps_searchInv hsearch hstep,
    step_keeps_blocksAgree hassembled hblocks hstep⟩

/-! ### Reset and absent lines -/

/-- Settles O58: both blocks are Idle and nothing is matched, the accumulators are empty and every number is 0. -/
theorem resetHasCoreInv : Obligations.ResetHasCoreInv :=
  ⟨fun _ hins => absurd hins List.not_mem_nil, accsHoldSentinel_of_empty rfl,
    ⟨Nat.two_pow_pos _, Nat.two_pow_pos _, Nat.two_pow_pos _⟩, searchInv_of_idle_unmatched rfl rfl,
    blocksAgree_of_no_search rfl (.inl rfl)⟩

/-- Settles O17: all five operations are `onLine` with an effect of their own. -/
theorem absentLineIsRefused : Obligations.AbsentLineIsRefused := by
  intro line take v b s h
  simp only [exec, execBaHold, execBaOffer, execBaTake, execBaTakeOffer, execBaReset, onLine_of_absent line _ s h,
    and_self]

end Sys2Proof.Machine
end

section
/-! PROOFS. The catalog (R51, R52) and the codes that leave the CORE: a record leaves in a tick of `PIC.EMIT` only, so its code is
the one the invariant speaks of (R54, R171, R173). -/

namespace Sys2Proof.Machine

/-! ### The catalog -/

/-- R52 (a): no two slots share a polynomial. -/
theorem catRead_injective : Function.Injective catRead := by
  have hnodup : ((List.finRange 32).map catRead).Nodup := by decide
  exact fun i j h => List.inj_on_of_nodup_map hnodup (List.mem_finRange i) (List.mem_finRange j) h

/-- R52 (b): every polynomial has the bit that makes a step a bijection. -/
theorem catRead_getLsbD_sixteen (i : Slot) : (catRead i).getLsbD 16 = true := by
  revert i
  decide

/-- R52 (c): every polynomial has an even number of ones. -/
theorem parity_catRead (i : Slot) : parity (catRead i) = false := by
  revert i
  decide

/-- Settles O11: the list is the catalog's own, read in order, and each property of its entries is a lemma above. -/
theorem catalogEntriesAreListedDistinctAndEven : Obligations.CatalogEntriesAreListedDistinctAndEven :=
  ⟨rfl, fun _ _ h => catRead_injective h, fun i => ⟨catRead_getLsbD_sixteen i, parity_catRead i⟩⟩

/-! ### A record leaves -/

/-- `PIC.EMIT` is the only one of the controller's operations that hands a record to the sink, and it hands over `out` (R171). -/
theorem exec_pic_emitted {i : Instr} {s u : State} {record : IdentifiedPulse} (hi : (encode i).block = .pic)
    (h : exec i s = .next u) (hemitted : u.picPorts.emitted = some record) :
    (∃ v b, i = .picEmit v b) ∧ record = outRecord s := by
  cases i with
  | picEmit v b =>
    cases h
    exact ⟨⟨v, b, rfl⟩, (Option.some.inj hemitted).symm⟩
  | picWaitPulse | picAccept | picPredict | picWaitSearch | picCollect | picHoldEmit =>
    cases h
    cases hemitted
  | _ => cases hi

/-- `PIC.EMIT` is selected in Emit only, with the sink ready (R74). -/
theorem decode_picEncoded_picEmit {s : State} {ins : TickInputs} {v b : Bool}
    (h : decode (picEncoded s ins) = .ok (.picEmit v b)) : s.pic.state = .emit ∧ ins.sinkReady = true := by
  rw [picEncoded, decode_pic] at h
  cases hstate : s.pic.state with
  | idle => cases hpulse : ins.pulse.isSome <;> rw [hstate, hpulse] at h <;> cases h
  | predictWindow => rw [hstate] at h; cases h
  | searching => cases hbusy : busy s.su <;> rw [hstate, hbusy] at h <;> cases h
  | emit =>
    refine ⟨rfl, ?_⟩
    cases hsink : ins.sinkReady with
    | true => rfl
    | false => rw [hstate, hsink] at h; cases h

/-- A record leaves in a tick of Emit without a reset and with the sink ready, and it is `out` of the pre-state (R171, R220). -/
theorem step_emitted {s t : State} {record : IdentifiedPulse} (hstep : step s = .next t)
    (hemitted : t.picPorts.emitted = some record) :
    (fetchTick s).rst = false ∧ s.pic.state = .emit ∧ (fetchTick s).sinkReady = true ∧ record = outRecord s := by
  cases hrst : (fetchTick s).rst with
  | true =>
    obtain ⟨u, hexec, rfl⟩ := step_of_rst hrst hstep
    cases hexec
    cases hemitted
  | false =>
    obtain ⟨-, ⟨i, u, hi, hu, -, hports⟩, -⟩ := tickIsSimultaneous s t hrst hstep
    obtain ⟨j, hj, hblock⟩ := decode_picEncoded s (fetchTick s)
    obtain rfl : j = i := Except.ok.inj (hj.symm.trans hi)
    obtain ⟨⟨v, b, rfl⟩, hrecord⟩ := exec_pic_emitted hblock hu (hports ▸ hemitted)
    obtain ⟨hstate, hsink⟩ := decode_picEncoded_picEmit hi
    exact ⟨rfl, hstate, hsink, hrecord⟩

/-! ### The codes -/

/-- A 5-bit index is below 32 in the 6 bits of the code too. -/
theorem zeroExtend_catalogIndex_lt (index : CatalogIndex) : (BitVec.zeroExtend 6 index).toNat < 32 := by
  rw [BitVec.zeroExtend, BitVec.toNat_setWidth_of_le (by decide)]
  exact index.isLt

/-- A true code is a legal one: it is `0x3F` or the index of a match (R54). -/
theorem CodeIsTrue.codeIsLegal {s : State} (h : CodeIsTrue s) : CodeIsLegal s := by
  intro hstate
  obtain hunident | ⟨-, hindex, -⟩ := h hstate
  · exact .inr hunident
  · exact .inl (hindex ▸ zeroExtend_catalogIndex_lt s.su.matchedIndex)

/-- Settles O59: the record that leaves is `out` of a state in Emit, whose code the invariant makes true and hence legal. -/
theorem emittedCodesAreLegal : Obligations.EmittedCodesAreLegal := by
  rintro s t record ⟨-, -, -, -, -, -, hcode⟩ hstep hemitted
  obtain ⟨-, hstate, -, rfl⟩ := step_emitted hstep hemitted
  exact ⟨rfl, hcode.codeIsLegal hstate⟩

end Sys2Proof.Machine
end

section
/-! PROOFS. Control vectors (R70 to R75). A vector that fits its format is its own bits written out, so the lemmas on written-out
vectors speak of every vector; the operation it selects stands in one row of the opcode table, and the rows of a format are
disjoint. Then which operation each block's inputs and state bits select in a tick, and what a slot's own vector does. -/

namespace Sys2Proof.Machine

/-! ### The bits of a vector -/

/-- A bit written last is the least significant. -/
theorem vectorOf_concat (bits : List Bool) (b : Bool) :
    vectorOf (bits ++ [b]) = (vectorOf bits <<< 1) ||| BitVec.zeroExtend 8 (BitVec.ofBool b) := by
  simp [vectorOf]

theorem vectorOf_getLsbD (bits : List Bool) {i : Nat} (hi : i < 8) :
    (vectorOf bits).getLsbD i = bits.reverse.getD i false := by
  induction bits using List.reverseRecOn generalizing i with
  | nil => simp [vectorOf]
  | append_singleton bits b ih =>
    rw [vectorOf_concat, List.reverse_concat]
    cases i with
    | zero => simp
    | succ n =>
      have hn : n < 8 := Nat.lt_of_succ_lt hi
      simpa [hi, hn] using ih hn

/-- A vector of `n` bits is its bits written out, the most significant first. -/
theorem vectorOf_bits {v : BitVec 8} {n : Nat} (hfit : v.toNat < 2 ^ n) :
    vectorOf ((List.range n).reverse.map v.getLsbD) = v := by
  refine BitVec.eq_of_getLsbD_eq fun i hi => ?_
  rw [vectorOf_getLsbD _ hi, ← List.map_reverse, List.reverse_reverse]
  by_cases hin : i < n
  · simp [hin]
  · have hlt : v.toNat < 2 ^ i := hfit.trans_le (Nat.pow_le_pow_right two_pos (not_lt.1 hin))
    simpa [hin, BitVec.getLsbD] using Nat.testBit_lt_two_pow hlt

/-! ### Decoder and encoder -/

theorem decode_sgr (slot : Slot) (load step : Bool) (ops : Operands) :
    decode ⟨.sgr slot, vectorOf [load, step], ops⟩ = .ok (.sgValue slot load step) := by
  simp only [decode, Block.format, Format.width]
  cases load <;> cases step <;> rfl

/-- A vector that decodes is no wider than its format (R70). -/
theorem fits_of_decode {e : Encoded} {i : Instr} (h : decode e = .ok i) : e.vector.toNat < 2 ^ e.block.format.width := by
  by_contra hwide
  rw [decode, if_neg hwide] at h
  cases h

/-- Settles O1: each operation's vector is written out, and the lemma on its block's vectors reads it back. -/
theorem decodeInvertsEncode : Obligations.DecodeInvertsEncode := by
  intro i
  cases i with
  | coreReset => exact decode_core _
  | baReset | baTakeOffer | baTake | baOffer | baHold => exact decode_ba _ _ _ _ _ _
  | sgReset | sgAdvance | sgHold => exact decode_sg _ _ _ _
  | sgValue => exact decode_sgr _ _ _ _
  | suHold | suStart | suStep | suStepReject => exact decode_su _ _ _
  | picWaitPulse | picAccept | picPredict | picWaitSearch | picCollect | picHoldEmit | picEmit =>
    exact decode_pic _ _ _ _ _ _

/-- The vector selects an operation of the block, and no bit of it is lost in that operation. -/
def ReadsBack (block : Block) (v : BitVec 8) (ops : Operands) : Prop :=
  ∃ i, decode ⟨block, v, ops⟩ = .ok i ∧ (encode i).block = block ∧ (encode i).vector = v

theorem readsBack_ba (line : Line) (e t v b : Bool) (ops : Operands) :
    ReadsBack (.ba line) (vectorOf [e, t, v, b]) ops := by
  refine ⟨_, decode_ba line e t v b ops, ?_⟩
  cases e <;> cases t <;> cases v <;> exact ⟨rfl, rfl⟩

theorem readsBack_sg (slot : Slot) (load step : Bool) (ops : Operands) :
    ReadsBack (.sg slot) (vectorOf [load, step]) ops := by
  refine ⟨_, decode_sg slot load step ops, ?_⟩
  cases load <;> cases step <;> exact ⟨rfl, rfl⟩

theorem readsBack_su (busyBit start : Bool) (ops : Operands) : ReadsBack .su (vectorOf [busyBit, start]) ops := by
  refine ⟨_, decode_su busyBit start ops, ?_⟩
  cases busyBit <;> cases start <;> exact ⟨rfl, rfl⟩

theorem readsBack_pic (hi lo v r b : Bool) (ops : Operands) : ReadsBack .pic (vectorOf [hi, lo, v, r, b]) ops := by
  refine ⟨_, decode_pic hi lo v r b ops, ?_⟩
  match hi, lo with
  | false, false => cases v <;> exact ⟨rfl, rfl⟩
  | false, true => exact ⟨rfl, rfl⟩
  | true, false => cases b <;> exact ⟨rfl, rfl⟩
  | true, true => cases r <;> exact ⟨rfl, rfl⟩

/-- R70: every vector of a block's own format selects an operation of that block and is that operation's vector. -/
theorem readsBack_of_fits {block : Block} {v : BitVec 8} (ops : Operands) (hcore : block ≠ .core)
    (hfit : v.toNat < 2 ^ block.format.width) : ReadsBack block v ops := by
  rw [← vectorOf_bits hfit]
  cases block with
  | core => exact absurd rfl hcore
  | ba line => exact readsBack_ba line _ _ _ _ ops
  | sg slot => exact readsBack_sg slot _ _ ops
  | sgr slot => exact ⟨_, decode_sgr slot _ _ ops, rfl, rfl⟩
  | su => exact readsBack_su _ _ ops
  | pic => exact readsBack_pic _ _ _ _ _ ops

/-- The global vectors (R75); that 0 answers the named error is the model's reading (notes/assumptions/25.md). -/
theorem decode_global (b : Bool) (ops : Operands) :
    decode ⟨.core, vectorOf [b], ops⟩ = if b then .ok .coreReset else .error .noGlobalOperation := by
  simp only [decode, Block.format, Format.width]
  cases b <;> rfl

/-- Settles O2: a vector that decodes fits its format, so it reads back; of the global ones only 1 decodes. -/
theorem decodeDropsNoVectorBit : Obligations.DecodeDropsNoVectorBit := by
  rintro ⟨block, v, ops⟩ i h
  have hfit := fits_of_decode h
  by_cases hcore : block = .core
  · subst hcore
    obtain ⟨b, rfl⟩ : ∃ b, v = vectorOf [b] := ⟨v.getLsbD 0, (vectorOf_bits hfit).symm⟩
    rw [decode_global] at h
    cases b with
    | false => cases h
    | true => cases h; exact ⟨rfl, rfl⟩
  · obtain ⟨j, hj, hback⟩ := readsBack_of_fits ops hcore hfit
    obtain rfl : j = i := Except.ok.inj (hj.symm.trans h)
    exact hback

/-! ### The rows of the opcode table -/

theorem and_maskBits_of_selects {r : OpRow} {v : BitVec 8} (h : r.selects v = true) :
    v &&& r.maskBits = r.matchBits := by
  rw [OpRow.selects, Bool.and_eq_true] at h
  exact eq_of_beq h.2

/-- Two rows that select one vector agree on every bit that both fix. -/
theorem fixedBits_agree_of_selects {r q : OpRow} {v : BitVec 8} (hr : r.selects v = true) (hq : q.selects v = true) :
    r.matchBits &&& q.maskBits = q.matchBits &&& r.maskBits := by
  rw [← and_maskBits_of_selects hr, ← and_maskBits_of_selects hq, BitVec.and_assoc, BitVec.and_assoc,
    BitVec.and_comm r.maskBits]

/-- R70: two rows of one format that agree on every bit that both fix are the same row. -/
theorem opcodeRows_disjoint :
    ∀ r ∈ opcodeRows, ∀ q ∈ opcodeRows, r.format = q.format →
      r.matchBits &&& q.maskBits = q.matchBits &&& r.maskBits → r = q := by decide

theorem opcodeRows_mnemonic_injective :
    ∀ r ∈ opcodeRows, ∀ q ∈ opcodeRows, r.mnemonic = q.mnemonic → r = q := by decide

/-- Each operation's vector stands in the row of its mnemonic. -/
theorem encode_in_row (i : Instr) : Laws.EncodesInRow.Statement i := by
  cases i with
  | coreReset => exact Laws.EncodesInRow.coreReset
  | baReset line t v b => exact Laws.EncodesInRow.baReset line t v b
  | baTakeOffer line b => exact Laws.EncodesInRow.baTakeOffer line b
  | baTake line b => exact Laws.EncodesInRow.baTake line b
  | baOffer line b => exact Laws.EncodesInRow.baOffer line b
  | baHold line b => exact Laws.EncodesInRow.baHold line b
  | sgReset slot step seed => exact Laws.EncodesInRow.sgReset slot step seed
  | sgAdvance slot => exact Laws.EncodesInRow.sgAdvance slot
  | sgHold slot => exact Laws.EncodesInRow.sgHold slot
  | sgValue slot load step => exact Laws.EncodesInRow.sgValue slot load step
  | suHold => exact Laws.EncodesInRow.suHold
  | suStart request => exact Laws.EncodesInRow.suStart request
  | suStep => exact Laws.EncodesInRow.suStep
  | suStepReject request => exact Laws.EncodesInRow.suStepReject request
  | picWaitPulse r b => exact Laws.EncodesInRow.picWaitPulse r b
  | picAccept r b pulse => exact Laws.EncodesInRow.picAccept r b pulse
  | picPredict v r b => exact Laws.EncodesInRow.picPredict v r b
  | picWaitSearch v r => exact Laws.EncodesInRow.picWaitSearch v r
  | picCollect v r found index => exact Laws.EncodesInRow.picCollect v r found index
  | picHoldEmit v b => exact Laws.EncodesInRow.picHoldEmit v b
  | picEmit v b => exact Laws.EncodesInRow.picEmit v b

/-- Of the rows of its format, exactly the row of its mnemonic selects an operation's vector (R70). -/
theorem selects_encode_iff {i : Instr} {r : OpRow} (hr : r ∈ opcodeRows) (hformat : r.format = (encode i).block.format) :
    r.selects (encode i).vector = true ↔ r.mnemonic = i.mnemonic := by
  obtain ⟨q, hq, hmnemonic, hqformat, hselects⟩ := encode_in_row i
  constructor
  · intro h
    rw [opcodeRows_disjoint r hr q hq (hformat.trans hqformat.symm) (fixedBits_agree_of_selects h hselects), hmnemonic]
  · intro h
    rw [opcodeRows_mnemonic_injective r hr q hq (h.trans hmnemonic.symm)]
    exact hselects

/-- Settles O3: the vector is that of the operation it selects, whose row is the only one of the format to match. -/
theorem everyVectorSelectsItsRow : Obligations.EveryVectorSelectsItsRow := by
  refine ⟨fun block v ops hcore hfit => ?_, fun ops => ⟨decode_global true ops, decode_global false ops⟩⟩
  obtain ⟨i, hi, rfl, rfl⟩ := readsBack_of_fits ops hcore hfit
  exact ⟨i, hi, fun r hr hformat => selects_encode_iff hr hformat⟩

/-- Settles O4: each vector is one of those that the lemmas on written-out vectors speak of. -/
theorem vectorsOfTheSpecDecode : Obligations.VectorsOfTheSpecDecode :=
  ⟨decode_core .zero, decode_ba 2 true true false true .zero, decode_ba 0 false true true false .zero,
    decode_sg 31 false true .zero, decode_su true false .zero, decode_pic true false true false true .zero,
    decode_pic true true false true false .zero⟩

/-! ### Selection in a tick -/

/-- Settles O49: the line's vector is its four inputs. -/
theorem accumulatorSelection : Obligations.AccumulatorSelection := by
  intro ins line
  rcases h : ins.ba[line] with ⟨e, t, v, b⟩
  rw [baEncoded, h, decode_ba]
  cases e <;> cases t <;> cases v <;> rfl

theorem busy_of_idle {su : SuRegs} (h : su.state = .idle) : busy su = false := by
  rw [busy, h]; rfl

theorem busy_of_searching {su : SuRegs} (h : su.state = .searching) : busy su = true := by
  rw [busy, h]; rfl

/-- Settles O50: the Search Unit's vector is its state bit and whether a request stands on the port. -/
theorem searchUnitSelection : Obligations.SearchUnitSelection := by
  intro s ins
  rw [suEncoded, decode_su]
  refine ⟨fun hstate hport => ?_, fun r hstate hport => ?_, fun hstate hport => ?_, fun r hstate hport => ?_⟩
  · rw [busy_of_idle hstate, hport]; rfl
  · rw [busy_of_idle hstate, hport]; rfl
  · rw [busy_of_searching hstate, hport]; rfl
  · rw [busy_of_searching hstate, hport]; rfl

/-- Settles O51: the controller's vector is its two state bits and three inputs, of which each row reads what it needs. -/
theorem controllerSelection : Obligations.ControllerSelection := by
  intro s ins v r b
  rw [picEncoded, decode_pic]
  refine ⟨fun hstate hpulse => ?_, fun pulse hstate hpulse => ?_, fun hstate => ?_, fun hstate hsu => ?_,
    fun hstate hsu => ?_, fun hstate hsink => ?_, fun hstate hsink => ?_⟩
  · rw [hstate, hpulse]; rfl
  · rw [hstate, hpulse]; rfl
  · rw [hstate]; rfl
  · rw [hstate, busy_of_searching hsu]; rfl
  · rw [hstate, busy_of_idle hsu]; rfl
  · rw [hstate, hsink]; rfl
  · rw [hstate, hsink]; rfl

/-! ### A slot's own vector -/

/-- R72: `step` in every Searching tick. -/
theorem decode_sgEncoded_of_searching {s : State} (ins : TickInputs) (slot : Slot) (hstate : s.su.state = .searching) :
    decode (sgEncoded s ins slot) = .ok (.sgAdvance slot) := by
  rw [sgEncoded, decode_sg, busy_of_searching hstate, Bool.not_true, Bool.and_false]

/-- R72: `load` in the tick a start is accepted. -/
theorem decode_sgEncoded_of_start {s : State} {ins : TickInputs} {request : StartRequest} (slot : Slot)
    (hstate : s.su.state = .idle) (hport : startPort s ins = some request) :
    decode (sgEncoded s ins slot) = .ok (.sgReset slot false request.startWord) := by
  rw [sgEncoded, decode_sg, busy_of_idle hstate, hport]; rfl

/-- R72: neither bit while the Search Unit holds. -/
theorem decode_sgEncoded_of_hold {s : State} {ins : TickInputs} (slot : Slot)
    (hstate : s.su.state = .idle) (hport : startPort s ins = none) :
    decode (sgEncoded s ins slot) = .ok (.sgHold slot) := by
  rw [sgEncoded, decode_sg, busy_of_idle hstate, hport]; rfl

theorem setSlot_slots_self (s : State) (slot : Slot) (w : Word) : (s.setSlot slot w).su.slots[slot] = w := by
  simp

/-- Whatever its outcome, a tick of a search advances every slot (R133). -/
theorem searchTick_slots (s : State) : (searchTick s).su.slots = advanceSlots s.su.slots := by
  obtain ⟨hsu, -⟩ | ⟨_, hsu, -⟩ | ⟨hsu, -⟩ := searchTick_su_cases s <;> rw [hsu]

/-- A tick of a search leaves in each slot what `SG.ADVANCE` leaves there. -/
theorem searchTick_slot_eq_sgAdvance (s : State) (slot : Slot) :
    (searchTick s).su.slots[slot] = (s.setSlot slot (adv (catRead slot) s.su.slots[slot])).su.slots[slot] := by
  rw [searchTick_slots, advanceSlots_get, setSlot_slots_self]

/-- Settles O32: the Search Unit's state and its start port select the operation of the unit and that of the slot together. -/
theorem slotVectorsAgreeWithSearchUnit : Obligations.SlotVectorsAgreeWithSearchUnit := by
  intro s ins slot
  obtain ⟨hhold, hstart, hstep, hreject⟩ := searchUnitSelection s ins
  cases hstate : s.su.state with
  | idle =>
    cases hport : startPort s ins with
    | none =>
      refine ⟨_, _, _, hhold hstate hport, decode_sgEncoded_of_hold slot hstate hport, rfl, fun u hu => ?_⟩
      cases hu
      exact (setSlot_slots_self s slot _).symm
    | some request =>
      refine ⟨_, _, _, hstart request hstate hport, decode_sgEncoded_of_start slot hstate hport, rfl, fun u hu => ?_⟩
      obtain ⟨-, rfl⟩ := execSuStart_next hu
      exact (seedSlots_get _ slot).trans (setSlot_slots_self s slot _).symm
  | searching =>
    have hadvance := decode_sgEncoded_of_searching ins slot hstate
    cases hport : startPort s ins with
    | none =>
      refine ⟨_, _, _, hstep hstate hport, hadvance, rfl, fun u hu => ?_⟩
      cases hu
      exact searchTick_slot_eq_sgAdvance s slot
    | some request =>
      refine ⟨_, _, _, hreject request hstate hport, hadvance, rfl, fun u hu => ?_⟩
      cases hu
      exact searchTick_slot_eq_sgAdvance s slot

/-! ### A step is its decoded operations -/

/-- Settles O48: the step passes on what the list of operations answers. -/
theorem stepRunsDecodedOperations : Obligations.StepRunsDecodedOperations := by
  intro s is hops
  constructor
  · intro t hrun
    simp only [step, tick, hops, hrun]
    rfl
  · intro r hrun
    simp only [step, tick, hops, hrun]

/-- R75: with `rst` = 1 every block's vector gives way to the global one. -/
theorem tickOps_of_rst {s : State} (hrst : (fetchTick s).rst = true) : tickOps s = .ok [.coreReset] := by
  rw [tickOps, tickEncoded, hrst, if_pos rfl]
  exact decodeAll_of_ok (.cons (decode_core _) .nil)

/-- Settles O47: the reset is the one operation of the tick, and it leaves the script to be moved on. -/
theorem resetTickRunsOnlyReset : Obligations.ResetTickRunsOnlyReset := by
  intro s hrst
  obtain ⟨hnext, -⟩ := stepRunsDecodedOperations s _ (tickOps_of_rst hrst)
  exact ⟨_, rfl, hnext _ rfl⟩

end Sys2Proof.Machine
end

section
/-! PROOFS. The Sequence Generator (R100 to R106). A write of one slot, read back; then one step of a generator as arithmetic, as a
map with an inverse, and as a map that fixes 0. -/

namespace Sys2Proof.Machine

/-! ### A write of one slot -/

theorem setSlot_slots_other (s : State) {slot other : Slot} (w : Word) (h : other ≠ slot) :
    (s.setSlot slot w).su.slots[other] = s.su.slots[other] := by
  have hval : (slot : Nat) ≠ other := fun e => h (Fin.ext e.symm)
  simp [hval]

theorem setSlot_only (s : State) (slot : Slot) (w : Word) : OnlySlot slot s (s.setSlot slot w) :=
  ⟨rfl, fun _ hother => setSlot_slots_other s w hother⟩

theorem setSlot_own_value (s : State) (slot : Slot) : s.setSlot slot s.su.slots[slot] = s := by
  have hslots : s.su.slots.set slot s.su.slots[slot] = s.su.slots := Vector.set_getElem_self slot.isLt
  rw [State.setSlot, State.setSu, hslots]

/-! ### One step as arithmetic (R100, R101) -/

/-- R101's pseudocode read as `trunc_17({s, new_bit})`. -/
theorem adv_eq_setWidth_concat (p s : Word) : adv p s = (s.concat (parity (s &&& p))).setWidth 17 := by
  apply BitVec.eq_of_getLsbD_eq
  intro i hi
  rw [adv_getLsbD, BitVec.getLsbD_setWidth, BitVec.getLsbD_concat]
  split <;> simp [hi]

theorem adv_toNat (p s : Word) : (adv p s).toNat = (2 * s.toNat + (parity (s &&& p)).toNat) % 2 ^ 17 := by
  rw [adv_eq_setWidth_concat, BitVec.toNat_setWidth, BitVec.toNat_concat, Nat.mul_comm]

/-- Settles O5: the write is that of the slot alone, and the parity brought in is the number of ones modulo 2. -/
theorem sgAdvanceShiftsInParity : Obligations.SgAdvanceShiftsInParity := by
  intro slot s
  refine ⟨decode_sg slot false true _, _, rfl, ?_, setSlot_only s slot _⟩
  rw [setSlot_slots_self, adv_toNat, parity, parityBelow_toNat]

/-! ### One step has an inverse (R105) -/

/-- The parity of the low bits depends on those bits only. -/
theorem parityBelow_congr {w w' n : Nat} {v : BitVec w} {v' : BitVec w'}
    (h : ∀ i < n, v.getLsbD i = v'.getLsbD i) : parityBelow v n = parityBelow v' n := by
  induction n with
  | zero => rfl
  | succ n ih => rw [parityBelow, parityBelow, h n n.lt_succ_self, ih fun i hi => h i (Nat.lt_succ_of_lt hi)]

/-- Where bit 16 of the polynomial is 1, bit 16 of the state takes part in the new bit. -/
theorem parity_and_of_bit_sixteen {p : Word} (s : Word) (hp : p.getLsbD 16 = true) :
    parity (s &&& p) = (s.getLsbD 16 ^^ parity (s.extractLsb' 0 16 &&& p.extractLsb' 0 16)) := by
  have hlow : parityBelow (s &&& p) 16 = parity (s.extractLsb' 0 16 &&& p.extractLsb' 0 16) :=
    parityBelow_congr fun i hi => by simp [hi]
  rw [← hlow, parity, parityBelow, BitVec.getLsbD_and, hp, Bool.and_true]

/-- The low 16 bits of the old state are the high 16 of the new one. -/
theorem extractLsb'_adv (p s : Word) : (adv p s).extractLsb' 1 16 = s.extractLsb' 0 16 := by
  apply BitVec.eq_of_getLsbD_eq
  intro i hi
  have hi' : 1 + i < 17 := by omega
  rw [BitVec.getLsbD_extractLsb', BitVec.getLsbD_extractLsb', adv_getLsbD]
  simp [hi']

/-- Bit 16 of the old state, recovered from the new one. -/
theorem getLsbD_sixteen_of_adv {p : Word} (s : Word) (hp : p.getLsbD 16 = true) :
    s.getLsbD 16 = ((adv p s).getLsbD 0 ^^ parity ((adv p s).extractLsb' 1 16 &&& p.extractLsb' 0 16)) := by
  rw [extractLsb'_adv, adv_getLsbD, if_pos rfl, parity_and_of_bit_sixteen s hp, Bool.xor_assoc, Bool.xor_self,
    Bool.xor_false]

/-- A word is its low 16 bits and its bit 16. -/
theorem word_eq_of_low_of_bit_sixteen {s s' : Word} (hlow : s.extractLsb' 0 16 = s'.extractLsb' 0 16)
    (htop : s.getLsbD 16 = s'.getLsbD 16) : s = s' := by
  apply BitVec.eq_of_getLsbD_eq
  intro i hi
  obtain hlt | rfl : i < 16 ∨ i = 16 := by omega
  · simpa [hlt] using congrArg (·.getLsbD i) hlow
  · exact htop

theorem adv_injective {p : Word} (hp : p.getLsbD 16 = true) : Function.Injective (adv p) := by
  intro s s' h
  apply word_eq_of_low_of_bit_sixteen
  · rw [← extractLsb'_adv p s, h, extractLsb'_adv]
  · rw [getLsbD_sixteen_of_adv s hp, h, ← getLsbD_sixteen_of_adv s' hp]

theorem adv_bijective {p : Word} (hp : p.getLsbD 16 = true) : Function.Bijective (adv p) :=
  Finite.injective_iff_bijective.1 (adv_injective hp)

/-! ### Many steps, and the state 0 (R105, R106) -/

theorem advN_eq_iterate (p : Word) (n : Nat) : advN p n = (adv p)^[n] := by
  induction n with
  | zero => rfl
  | succ n ih => rw [Function.iterate_succ', ← ih]; rfl

theorem advN_injective {p : Word} (hp : p.getLsbD 16 = true) (n : Nat) : Function.Injective (advN p n) := by
  rw [advN_eq_iterate]
  exact (adv_injective hp).iterate n

/-- 0 has no bit to move up, and its parity with any polynomial is 0. -/
theorem adv_zero_state (p : Word) : adv p 0 = 0 := by
  have hparity : parity ((0 : Word) &&& p) = false := congrArg parity (BitVec.zero_and (x := p))
  rw [adv, hparity]
  rfl

theorem advN_zero_state (p : Word) (n : Nat) : advN p n 0 = 0 := by
  rw [advN_eq_iterate]
  exact Function.iterate_fixed (adv_zero_state p) n

theorem advN_eq_zero_iff {p : Word} (hp : p.getLsbD 16 = true) (n : Nat) (s : Word) : advN p n s = 0 ↔ s = 0 :=
  calc advN p n s = 0
    _ ↔ advN p n s = advN p n 0 := by rw [advN_zero_state]
    _ ↔ s = 0 := (advN_injective hp n).eq_iff

/-- Settles O9: the two stated parts of the old state make a step injective, hence bijective on the finitely many states; the
catalog meets the condition. -/
theorem advanceIsBijective : Obligations.AdvanceIsBijective := by
  refine ⟨fun p hp => ⟨adv_bijective hp, fun s => ⟨(extractLsb'_adv p s).symm, getLsbD_sixteen_of_adv s hp⟩⟩,
    catRead_getLsbD_sixteen, fun p n hp => ⟨fun s s' => ?_, fun s => ?_⟩⟩
  · exact (advN_injective hp n).ne
  · exact mt (advN_eq_zero_iff hp n s).1

/-- Settles O10: 0 is fixed by every polynomial, and under the catalog's no other state reaches it. -/
theorem zeroStateIsFixed : Obligations.ZeroStateIsFixed :=
  ⟨adv_zero_state, fun i n s => advN_eq_zero_iff (catRead_getLsbD_sixteen i) n s⟩

/-! ### The other operations (R102 to R104) -/

/-- Settles O6: the write is that of the slot alone. -/
theorem sgResetLoadsSeed : Obligations.SgResetLoadsSeed := fun slot step _ s =>
  ⟨decode_sg slot true step _, _, rfl, setSlot_slots_self s slot _, setSlot_only s slot _⟩

/-- Settles O7: the slot is written with the value it holds. -/
theorem sgHoldKeepsSlot : Obligations.SgHoldKeepsSlot := fun slot s =>
  ⟨decode_sg slot false false _, congrArg Host.Outcome.next (setSlot_own_value s slot)⟩

/-- Settles O8: the read is the one write of `sgPort`, whatever the two bits of the vector. -/
theorem sgValueReadsSlot : Obligations.SgValueReadsSlot := fun _ _ _ _ => rfl

end Sys2Proof.Machine
end

section
/-! PROOFS. The Bit Accumulator (R110 to R122). What each of the five operations answers on a line that exists; then a list of
offers, as one fold over the register and, while the sentinel has room, as arithmetic; then what a take and a reset find after it. -/

namespace Sys2Proof.Machine

/-! ### One operation on a line -/

/-- On a line that exists an operation answers next: the effect on the register, the four ports (R110), and the frame. -/
theorem onLine_answers {line : Line} {s : State} (effect : Acc → BaEffect) (hline : s.params.hasLine line = true) :
    ∃ t, onLine line effect s = .next t ∧ t.accs[line] = (effect s.accs[line]).acc ∧
      t.baPorts[line].accepted = (effect s.accs[line]).accepted ∧ t.baPorts[line].taken = (effect s.accs[line]).taken ∧
      t.baPorts[line].wordValid = full s.accs[line] ∧ t.baPorts[line].word = accWord s.accs[line] ∧ OnlyLine line s t := by
  have hnext := onLine_of_hasLine line effect s hline
  obtain ⟨hacc, hports⟩ := onLine_self hnext
  refine ⟨_, hnext, hacc, ?_, ?_, ?_, ?_, onLine_only hnext⟩ <;> rw [hports]

/-- A register that is not full has a 0 at the top, so it keeps a bit free for the next shift. -/
theorem not_full_iff (acc : Acc) : full acc = false ↔ acc.toNat < 2 ^ 17 := by
  rw [← Bool.not_eq_true, full_iff, not_le]

/-- R113: "The truncation never drops a 1: the shift is taken only when bit 17 is 0." -/
theorem shiftIn_toNat_of_not_full {acc : Acc} (b : Bool) (hfull : full acc = false) :
    (shiftIn acc b).toNat = 2 * acc.toNat + b.toNat := by
  have hlt := (not_full_iff acc).1 hfull
  have hbit := Bool.toNat_le b
  rw [shiftIn_toNat, Nat.mod_eq_of_lt (by omega)]

/-- An offer alone returns no word. -/
theorem baShift_taken (b : Bool) (acc : Acc) : (baShift b acc).taken = none := by
  cases hfull : full acc with
  | true => rw [baShift_of_full b hfull]; rfl
  | false => rw [baShift_of_not_full b hfull]

/-- A take alone accepts no bit. -/
theorem baTakeIfFull_accepted (acc : Acc) : (baTakeIfFull acc).accepted = false := by
  cases hfull : full acc with
  | true => rw [baTakeIfFull_of_full hfull]
  | false => rw [baTakeIfFull_of_not_full hfull]; rfl

/-- Settles O12: the effect is to keep the register. -/
theorem baHoldKeepsRegister : Obligations.BaHoldKeepsRegister := fun line b _ =>
  ⟨decode_ba line false false false b .zero, onLine_answers baKeep⟩

/-- Settles O13: the shift of a register that is not full loses nothing, and a full one is kept. -/
theorem baOfferShiftsUnlessFull : Obligations.BaOfferShiftsUnlessFull := by
  intro line b s
  refine ⟨decode_ba line false false true b .zero, fun hline => ?_⟩
  obtain ⟨t, hexec, hacc, haccepted, htaken, hports⟩ := onLine_answers (baShift b) hline
  refine ⟨t, hexec, fun hfull => ?_, fun hfull => ?_, htaken.trans (baShift_taken b _), hports⟩
  · rw [hacc, haccepted, baShift_of_not_full b hfull]
    exact ⟨shiftIn_toNat_of_not_full b hfull, rfl⟩
  · rw [hacc, haccepted, baShift_of_full b hfull]
    exact ⟨rfl, rfl⟩

/-- Settles O14: a full register gives its word and is emptied, and any other is kept. -/
theorem baTakeEmptiesFullRegister : Obligations.BaTakeEmptiesFullRegister := by
  intro line b s
  refine ⟨decode_ba line false true false b .zero, fun hline => ?_⟩
  obtain ⟨t, hexec, hacc, haccepted, htaken, hports⟩ := onLine_answers baTakeIfFull hline
  refine ⟨t, hexec, fun hfull => ?_, fun hfull => ?_, haccepted.trans (baTakeIfFull_accepted _), hports⟩
  · rw [hacc, htaken, baTakeIfFull_of_full hfull]
    exact ⟨rfl, rfl⟩
  · rw [hacc, htaken, baTakeIfFull_of_not_full hfull]
    exact ⟨rfl, rfl⟩

/-- Settles O15: bit 17 of the pre-state chooses between the effect of a take and that of an offer. -/
theorem baTakeOfferJudgesPreState : Obligations.BaTakeOfferJudgesPreState := by
  intro line b s
  refine ⟨decode_ba line false true true b .zero, fun hline => ?_⟩
  obtain ⟨t, hexec, hacc, haccepted, htaken, hports⟩ :=
    onLine_answers (fun acc => if full acc then baTakeIfFull acc else baShift b acc) hline
  refine ⟨t, hexec, fun (hfull : full s.accs[line] = true) => ?_, fun (hfull : full s.accs[line] = false) => ?_, hports⟩
  · rw [hacc, haccepted, htaken, if_pos hfull, baTakeIfFull_of_full hfull]
    exact ⟨rfl, rfl, rfl⟩
  · rw [hacc, haccepted, htaken, if_neg (Bool.eq_false_iff.1 hfull), baShift_of_not_full b hfull]
    exact ⟨shiftIn_toNat_of_not_full b hfull, rfl, rfl⟩

/-- Settles O16: the register is emptied whatever it holds; the word is returned where the take strobe and bit 17 are both 1. -/
theorem baResetEmptiesRegister : Obligations.BaResetEmptiesRegister := by
  intro line take v b s
  refine ⟨decode_ba line true take v b .zero, fun hline => ?_⟩
  obtain ⟨t, hexec, hacc, haccepted, htaken, hports⟩ := onLine_answers (fun acc =>
    { acc := emptyAcc, accepted := false, taken := if take && full acc then some (accWord acc) else none }) hline
  refine ⟨t, hexec, hacc, haccepted, fun hboth => ?_, fun hnot => ?_, hports⟩
  · exact htaken.trans (if_pos (Bool.and_eq_true_iff.2 hboth))
  · exact htaken.trans (if_neg (Bool.eq_false_iff.1 (Bool.and_eq_false_iff.2 hnot)))

/-! ### A list of offers -/

/-- The register after bits offered one by one. -/
def accAfterOffers (acc : Acc) (bits : List Bool) : Acc := bits.foldl (fun a b => (baShift b a).acc) acc

theorem accAfterOffers_cons (acc : Acc) (b : Bool) (bits : List Bool) :
    accAfterOffers acc (b :: bits) = accAfterOffers (baShift b acc).acc bits := rfl

/-- A list of `BA.OFFER`s on a line that exists answers next, and what it leaves there is the fold. -/
theorem runOps_offers {line : Line} (bits : List Bool) {s : State} (hline : s.params.hasLine line = true) :
    ∃ t, runOps (bits.map fun b => .baOffer line b) s = .next t ∧
      t.accs[line] = accAfterOffers s.accs[line] bits ∧ OnlyLine line s t := by
  induction bits generalizing s with
  | nil => exact ⟨s, rfl, rfl, .refl line s⟩
  | cons b bits ih =>
    obtain ⟨u, hexec, hacc, -, -, -, -, honly⟩ := onLine_answers (baShift b) hline
    obtain ⟨t, hrun, haccs, hframe⟩ := ih (s := u) (by rw [honly.1, hline])
    refine ⟨t, ?_, by rw [haccs, hacc, accAfterOffers_cons], honly.trans hframe⟩
    have hfirst : exec (.baOffer line b) s = .next u := hexec
    rw [List.map_cons, runOps, hfirst]
    exact hrun

/-- R121: every offer to a full register is rejected. -/
theorem accAfterOffers_of_full {acc : Acc} (bits : List Bool) (hfull : full acc = true) :
    accAfterOffers acc bits = acc := by
  induction bits with
  | nil => rfl
  | cons b bits ih => rw [accAfterOffers_cons, baShift_of_full b hfull]; exact ih

/-- The frame of a line, and the line's own register, are all the accumulators. -/
theorem OnlyLine.accs_eq {line : Line} {s t : State} (h : OnlyLine line s t) (hself : t.accs[line] = s.accs[line]) :
    t.accs = s.accs := by
  obtain ⟨-, -, -, -, -, -, -, -, hothers⟩ := h
  refine Vector.ext fun i hi => ?_
  by_cases hi' : (⟨i, hi⟩ : Line) = line
  · subst hi'
    exact hself
  · exact (hothers ⟨i, hi⟩ hi').1

/-- Settles O19: the list of offers leaves the line's register, and the frame the others. -/
theorem fullRegisterIsNeverOverwritten : Obligations.FullRegisterIsNeverOverwritten := by
  intro line bits s hline hfull
  obtain ⟨t, hrun, hacc, honly⟩ := runOps_offers bits hline
  exact ⟨t, hrun, honly.accs_eq (hacc.trans (accAfterOffers_of_full bits hfull)), honly⟩

/-! ### The word as a number (R120) -/

/-- The number whose binary digits are those of `n` followed by `bits`. -/
def appendBits (n : Nat) (bits : List Bool) : Nat := bits.foldl (fun n b => 2 * n + b.toNat) n

theorem appendBits_cons (n : Nat) (b : Bool) (bits : List Bool) :
    appendBits n (b :: bits) = appendBits (Nat.bit b n) bits := by
  rw [Nat.bit_val]; rfl

theorem appendBits_lt {n k : Nat} (bits : List Bool) (hn : n < 2 ^ k) : appendBits n bits < 2 ^ (k + bits.length) := by
  induction bits generalizing n k with
  | nil => exact hn
  | cons b bits ih =>
    rw [appendBits_cons, List.length_cons, ← Nat.add_assoc, Nat.add_right_comm]
    exact ih (Nat.bit_lt_two_pow_succ_iff.2 hn)

/-- The digits of `n` stand above the appended bits. -/
theorem appendBits_testBit_high (n : Nat) (bits : List Bool) (i : Nat) :
    (appendBits n bits).testBit (bits.length + i) = n.testBit i := by
  induction bits generalizing n i with
  | nil => rw [List.length_nil, Nat.zero_add]; rfl
  | cons b bits ih =>
    rw [appendBits_cons, List.length_cons, Nat.add_assoc, Nat.add_comm 1 i, ih, Nat.testBit_bit_succ]

/-- The first appended bit is the most significant of them. -/
theorem appendBits_testBit (n : Nat) (bits : List Bool) (k : Nat) (hk : k < bits.length) :
    (appendBits n bits).testBit (bits.length - 1 - k) = bits[k] := by
  induction bits generalizing n k with
  | nil => exact absurd hk (Nat.not_lt_zero k)
  | cons b bits ih =>
    rw [appendBits_cons, List.length_cons, Nat.add_sub_cancel]
    cases k with
    | zero => exact (appendBits_testBit_high _ bits 0).trans (Nat.testBit_bit_zero b n)
    | succ k =>
      rw [Nat.sub_add_eq, Nat.sub_right_comm]
      exact ih _ k (Nat.lt_of_succ_lt_succ hk)

/-- While the register has room for all the bits, the offers append them to its number. -/
theorem accAfterOffers_toNat {acc : Acc} {k : Nat} (bits : List Bool) (hacc : acc.toNat < 2 ^ k)
    (hroom : k + bits.length ≤ 18) : (accAfterOffers acc bits).toNat = appendBits acc.toNat bits := by
  induction bits generalizing acc k with
  | nil => rfl
  | cons b bits ih =>
    rw [List.length_cons] at hroom
    have hfull : full acc = false :=
      (not_full_iff acc).2 (hacc.trans_le (Nat.pow_le_pow_right two_pos (by omega)))
    have hshift : (shiftIn acc b).toNat = Nat.bit b acc.toNat :=
      (shiftIn_toNat_of_not_full b hfull).trans (Nat.bit_val b _).symm
    rw [accAfterOffers_cons, baShift_of_not_full b hfull, appendBits_cons, ← hshift]
    exact ih (k := k + 1) (hshift ▸ Nat.bit_lt_two_pow_succ_iff.2 hacc) (by omega)

/-- From the empty register the bits follow the sentinel (R120). -/
theorem accAfterOffers_empty_toNat {bits : List Bool} (hlength : bits.length ≤ 17) :
    (accAfterOffers emptyAcc bits).toNat = appendBits 1 bits :=
  accAfterOffers_toNat (acc := emptyAcc) (k := 1) bits (by decide) (by omega)

/-- Settles O18: the fold of offers is the number with the bits appended, whose binary digits they are. -/
theorem offersAssembleWordInOrder : Obligations.OffersAssembleWordInOrder := by
  intro line bits s hline hempty hlength
  obtain ⟨t, hrun, hacc, honly⟩ := runOps_offers bits hline
  have hnumber : (t.accs[line]).toNat = appendBits 1 bits := by
    rw [hacc, hempty, accAfterOffers_empty_toNat hlength]
  refine ⟨t, hrun, hnumber, fun k hk => ?_, honly⟩
  rw [BitVec.getLsbD, hnumber, appendBits_testBit 1 bits k hk]

/-! ### Fewer than 17 bits (R118, R122) -/

/-- With fewer than 17 bits the sentinel has not reached the top. -/
theorem accAfterOffers_empty_not_full {bits : List Bool} (hlength : bits.length < 17) :
    full (accAfterOffers emptyAcc bits) = false := by
  rw [not_full_iff, accAfterOffers_empty_toNat hlength.le]
  exact (appendBits_lt (k := 1) bits (by decide)).trans_le (Nat.pow_le_pow_right two_pos (by omega))

/-- Fewer than 17 offers to the empty register leave a state in which a take finds no word and changes no register. -/
theorem take_after_few_offers {line : Line} {bits : List Bool} {s : State} (b : Bool)
    (hline : s.params.hasLine line = true) (hempty : s.accs[line] = emptyAcc) (hlength : bits.length < 17) :
    ∃ t u, runOps (bits.map fun b => .baOffer line b) s = .next t ∧ OnlyLine line s t ∧ full t.accs[line] = false ∧
      exec (.baTake line b) t = .next u ∧ u.baPorts[line].taken = none ∧ u.accs = t.accs := by
  obtain ⟨t, hrun, hacc, honly⟩ := runOps_offers bits hline
  have hfull : full t.accs[line] = false := by rw [hacc, hempty, accAfterOffers_empty_not_full hlength]
  obtain ⟨-, htake⟩ := baTakeEmptiesFullRegister line b t
  obtain ⟨u, hexec, -, hkeep, -, -, -, honly'⟩ := htake (by rw [honly.1, hline])
  obtain ⟨hself, htaken⟩ := hkeep hfull
  exact ⟨t, u, hrun, honly, hfull, hexec, htaken, honly'.accs_eq hself⟩

/-- Settles O20: neither the take nor the reset finds a word, and the reset leaves the register as empty as it was. -/
theorem incompletePulseVanishes : Obligations.IncompletePulseVanishes := by
  intro line bits take v b s hline hempty hlength
  obtain ⟨t, u, hrun, honly, hfull, hexec, htaken, haccs⟩ := take_after_few_offers b hline hempty hlength
  obtain ⟨-, hreset⟩ := baResetEmptiesRegister line take v b t
  obtain ⟨w, hexec', hself, -, -, hnone, -, -, honly'⟩ := hreset (by rw [honly.1, hline])
  exact ⟨t, u, w, hrun, hexec, htaken, haccs, hexec', hnone (.inr hfull),
    (honly.trans honly').accs_eq (hself.trans hempty.symm)⟩

/-- Settles O21: the reset returns nothing without a take and leaves the empty register, which few offers do not fill. -/
theorem staleWordNeverSurfaces : Obligations.StaleWordNeverSurfaces := by
  intro line bits v b s hline _ hlength
  obtain ⟨-, hreset⟩ := baResetEmptiesRegister line false v b s
  obtain ⟨t, hexec, hempty, -, -, hnone, -, -, honly⟩ := hreset hline
  obtain ⟨u, w, hrun, -, -, hexec', htaken, haccs⟩ :=
    take_after_few_offers b (by rw [honly.1, hline]) hempty hlength
  exact ⟨t, u, w, hexec, hnone (.inl rfl), hempty, hrun, hexec', htaken, haccs⟩

end Sys2Proof.Machine
end

section
/-! PROOFS. The Search Unit (R130 to R147). What each of its four operations answers; then the tick rules against the
whole-episode function: while an episode runs, its slots hold what the function tests, so the tick in which the rules end it is
the tick the function names; then what the invariant says of an emitted index. -/

namespace Sys2Proof.Machine

/-- Settles O55: a reset leaves nothing to keep, and each of the unit's moves keeps the invariant. -/
theorem stepKeepsSearchInv : Obligations.StepKeepsSearchInv := fun _ _ => step_keeps_searchInv

/-! ### Starting (R132, R144) -/

theorem beginEpisode_only (request : StartRequest) (s : State) : OnlySu s (beginEpisode request s) :=
  ⟨rfl, rfl, rfl, rfl, rfl, rfl, rfl⟩

/-- A start with a budget of `1 .. MAXB` is accepted. -/
theorem exec_suStart_accepted {request : StartRequest} {s : State} (hpos : 1 ≤ request.tickBudget)
    (hmax : request.tickBudget ≤ s.params.maxB) : exec (.suStart request) s = .next (beginEpisode request s) := by
  rw [exec, execSuStart, truncCw_of_lt hmax, if_neg (Nat.one_le_iff_ne_zero.1 hpos)]

/-- Settles O23: the accepted start is one write of all the registers, and the port carries a budget in range untruncated. -/
theorem suStartSeedsEverySlot : Obligations.SuStartSeedsEverySlot := by
  refine fun request s => ⟨decode_su false true _, fun hpos hmax => ⟨_, exec_suStart_accepted hpos hmax, ?_⟩⟩
  have hbudget : truncCw s.params request.tickBudget = request.tickBudget := truncCw_of_lt hmax
  exact ⟨seedSlots_get _, rfl, hbudget, rfl, rfl, hbudget, rfl, rfl, beginEpisode_only request s⟩

/-- A budget in range passes the port untruncated (R164, R166). -/
theorem startOperands_tickBudget {s : State} (hrange : outOfRange s = false) :
    (startOperands s).tickBudget = predictedBudget s.pic.cur.timestamp s.pic.lastTimestamp := by
  have hle : predictedBudget s.pic.cur.timestamp s.pic.lastTimestamp ≤ s.params.maxB := by
    simpa [outOfRange] using hrange
  exact truncCw_of_lt hle

/-- Settles O24: 0 is 0 on the port too; the controller's budget passes it untruncated, with R163's margin of 2 in it. -/
theorem suStartOfZeroBudgetIsRefused : Obligations.SuStartOfZeroBudgetIsRefused := by
  refine fun startWord targetWord s => ⟨?_, fun hvalid => ?_⟩
  · rw [exec, execSuStart, truncCw, Nat.zero_mod, if_pos rfl]
  · obtain ⟨-, hrange⟩ := (startValid_iff s).1 hvalid
    rw [startOperands_tickBudget hrange]
    exact two_le_predictedBudget _ _

/-! ### Holding and stepping (R131, R133 to R138) -/

/-- Settles O22: only the ports are written. -/
theorem suHoldKeepsRegisters : Obligations.SuHoldKeepsRegisters := fun _ =>
  ⟨decode_su false false _, _, rfl, rfl, rfl, rfl, rfl, rfl, rfl, rfl, rfl, rfl, rfl⟩

/-- What a tick of a search leaves in the registers is decided by its outcome (R133). -/
theorem searchTick_su_of_outcome {s : State} {outcome : SearchOutcome}
    (h : searchOutcome (tickDown s) (advanceSlots s.su.slots) s.su.target = outcome) :
    (searchTick s).su =
      settle outcome s.draws { s.su with slots := advanceSlots s.su.slots, ticksRemaining := tickDown s } := by
  rw [← h, searchTick_eq]

theorem settle_continued (draw : Nat) (su : SuRegs) : settle .continued draw su = su := rfl

theorem searchTick_slots_get (s : State) (i : Slot) : (searchTick s).su.slots[i] = adv (catRead i) s.su.slots[i] := by
  rw [searchTick_slots, advanceSlots_get]

/-- No slot's advanced value is the target: there is no hit (R133). -/
theorem lowestHit_advanceSlots_eq_none {s : State} (h : ∀ i : Slot, adv (catRead i) s.su.slots[i] ≠ s.su.target) :
    lowestHit (advanceSlots s.su.slots) s.su.target = none := by
  simpa only [lowestHit_eq_none, advanceSlots_get] using h

/-- Settles O25: the outcome is CONTINUE. -/
theorem suStepContinues : Obligations.SuStepContinues := by
  intro s hticks hmiss
  have hdown : tickDown s = s.su.ticksRemaining - 1 := tickDown_of_pos (by omega)
  have hsu := searchTick_su_of_outcome (s := s) <| searchOutcome_continued.2
    ⟨by omega, fun hwindow => lowestHit_advanceSlots_eq_none (hmiss (by rw [window] at hwindow; omega))⟩
  refine ⟨_, rfl, searchTick_slots_get s, ?_, rfl, searchTick_only s⟩
  rw [hsu, hdown]
  rfl

/-- Settles O26: the outcome is MATCH by the slot that is the lowest hit. -/
theorem suStepMatchesLowestSlot : Obligations.SuStepMatchesLowestSlot := by
  intro s i hpos hwindow hhit hlowest
  have hdown : tickDown s = s.su.ticksRemaining - 1 := tickDown_of_pos hpos
  have hmin : lowestHit (advanceSlots s.su.slots) s.su.target = some i := by
    simpa only [lowestHit_eq_some, advanceSlots_get] using ⟨hhit, hlowest⟩
  have hsu := searchTick_su_of_outcome (s := s) <| searchOutcome_matched.2 ⟨by rw [window]; omega, hmin⟩
  refine ⟨_, rfl, searchTick_slots_get s, ?_, rfl, searchTick_only s⟩
  rw [hsu, hdown]
  rfl

/-- Settles O27: the outcome is TIMEOUT. -/
theorem suStepTimesOut : Obligations.SuStepTimesOut := by
  intro s hlast hmiss
  have hdown : tickDown s = 0 := by rw [tickDown_of_pos (by omega), hlast]
  have hsu := searchTick_su_of_outcome (s := s) <|
    searchOutcome_timedOut.2 ⟨hdown, lowestHit_advanceSlots_eq_none hmiss⟩
  refine ⟨_, rfl, searchTick_slots_get s, ?_, rfl, searchTick_only s⟩
  rw [hsu, hdown]
  rfl

/-- Settles O28: both operations are the tick of the running episode. -/
theorem suStepRejectStepsTheEpisode : Obligations.SuStepRejectStepsTheEpisode := fun _ s =>
  ⟨decode_su true true _, searchTick s, rfl, rfl, rfl, searchTick_only s⟩

/-! ### The whole-episode function (R140, R143) -/

theorem firstHit_eq_none (startWord target : Word) (n count : Nat) :
    firstHit startWord target n count = none ↔ ∀ k, n ≤ k → k < n + count → hitAfter startWord target k = none := by
  induction count generalizing n with
  | zero => exact iff_of_true rfl fun k hk hlt => absurd hlt (by omega)
  | succ count ih =>
    rw [firstHit]
    cases hn : hitAfter startWord target n with
    | some i => exact iff_of_false (by simp) fun h => by simp [h n le_rfl (by omega)] at hn
    | none =>
      refine (ih (n + 1)).trans ⟨fun h k hk hlt => ?_, fun h k hk hlt => h k (by omega) (by omega)⟩
      obtain rfl | hk := hk.eq_or_lt
      · exact hn
      · exact h k hk (by omega)

theorem firstHit_eq_some (startWord target : Word) (n count m : Nat) (i : Slot) :
    firstHit startWord target n count = some (m, i) ↔
      n ≤ m ∧ m < n + count ∧ hitAfter startWord target m = some i ∧
        ∀ k, n ≤ k → k < m → hitAfter startWord target k = none := by
  induction count generalizing n with
  | zero => exact iff_of_false (by simp [firstHit]) fun ⟨hle, hlt, _⟩ => by omega
  | succ count ih =>
    rw [firstHit]
    cases hn : hitAfter startWord target n with
    | some j =>
      constructor
      · rintro ⟨⟩
        exact ⟨le_rfl, by omega, hn, fun k hk hlt => by omega⟩
      · rintro ⟨hle, -, hm, hbefore⟩
        obtain rfl | hlt := hle.eq_or_lt
        · rw [Option.some.inj (hn.symm.trans hm)]
        · exact absurd (hn.symm.trans (hbefore n le_rfl hlt)) (by simp)
    | none =>
      refine (ih (n + 1)).trans ⟨fun ⟨hle, hlt, hm, hbefore⟩ => ⟨by omega, by omega, hm, fun k hk hkm => ?_⟩,
        fun ⟨hle, hlt, hm, hbefore⟩ => ⟨?_, by omega, hm, fun k hk hkm => hbefore k (by omega) hkm⟩⟩
      · obtain rfl | hk := hk.eq_or_lt
        · exact hn
        · exact hbefore k hk hkm
      · exact hle.lt_of_ne fun h => by simp [← h, hn] at hm

/-- No tested offset below `n` has a hit. -/
def NoHitBefore (startWord target : Word) (budget n : Nat) : Prop :=
  ∀ k, firstOffset budget ≤ k → k < n → hitAfter startWord target k = none

theorem NoHitBefore.mono {startWord target : Word} {budget m n : Nat} (h : NoHitBefore startWord target budget n)
    (hle : m ≤ n) : NoHitBefore startWord target budget m :=
  fun k hk hlt => h k hk (hlt.trans_le hle)

/-- R134's window as the statements write it. -/
theorem firstOffset_eq (budget : Nat) : firstOffset budget = max 1 (budget - 3) := rfl

theorem firstOffset_pos (budget : Nat) : 1 ≤ firstOffset budget := le_max_left _ _

theorem firstOffset_le {budget : Nat} (h : 1 ≤ budget) : firstOffset budget ≤ budget := by
  rw [firstOffset_eq]; omega

theorem episode_of_hit {startWord target : Word} {budget n : Nat} {i : Slot} (hlo : firstOffset budget ≤ n)
    (hle : n ≤ budget) (hhit : hitAfter startWord target n = some i)
    (hbefore : NoHitBefore startWord target budget n) :
    episode startWord target budget = { found := some i, ticks := n } := by
  rw [episode, (firstHit_eq_some _ _ _ _ n i).2 ⟨hlo, by omega, hhit, hbefore⟩]

theorem episode_of_no_hit {startWord target : Word} {budget : Nat} (hbudget : 1 ≤ budget)
    (h : NoHitBefore startWord target budget (budget + 1)) :
    episode startWord target budget = { found := none, ticks := budget } := by
  have hle := firstOffset_le hbudget
  rw [episode, (firstHit_eq_none _ _ _ _).2 fun k hk hlt => h k hk (by omega)]

/-- What an episode can come to: the first tested offset with a hit, or the end of the budget without one (R140). -/
theorem episode_cases (startWord target : Word) {budget : Nat} (hbudget : 1 ≤ budget) :
    (∃ i n, episode startWord target budget = { found := some i, ticks := n } ∧ firstOffset budget ≤ n ∧ n ≤ budget ∧
      hitAfter startWord target n = some i ∧ NoHitBefore startWord target budget n) ∨
    (episode startWord target budget = { found := none, ticks := budget } ∧
      NoHitBefore startWord target budget (budget + 1)) := by
  have hlo := firstOffset_le hbudget
  cases hfirst : firstHit startWord target (firstOffset budget) (budget + 1 - firstOffset budget) with
  | some hit =>
    obtain ⟨n, i⟩ := hit
    obtain ⟨hle, hlt, hhit, hbefore⟩ := (firstHit_eq_some _ _ _ _ n i).1 hfirst
    have hend : n ≤ budget := by omega
    exact .inl ⟨i, n, episode_of_hit hle hend hhit hbefore, hle, hend, hhit, hbefore⟩
  | none =>
    have hnone : NoHitBefore startWord target budget (budget + 1) := fun k hk hlt =>
      (firstHit_eq_none _ _ _ _).1 hfirst k hk (by omega)
    exact .inr ⟨episode_of_no_hit hbudget hnone, hnone⟩

/-- Settles O30: each of the two results an episode can come to is what the clause about it says. -/
theorem episodeFindsLeastOffset : Obligations.EpisodeFindsLeastOffset := by
  intro startWord target budget hbudget
  obtain ⟨i, n, hepisode, hlo, hle, hhit, hbefore⟩ | ⟨hepisode, hnone⟩ := episode_cases startWord target hbudget
  · obtain ⟨hreach, hlowest⟩ := (hitAfter_eq_some _ _ _ _).1 hhit
    rw [hepisode]
    refine ⟨?_, fun h => absurd h (by simp)⟩
    rintro _ ⟨⟩
    exact ⟨hlo, hle, hreach, hlowest, fun k hk hlt => (hitAfter_eq_none _ _ _).1 (hbefore k hk hlt)⟩
  · rw [hepisode]
    exact ⟨fun _ h => absurd h (by simp),
      fun _ => ⟨rfl, fun k hk hle => (hitAfter_eq_none _ _ _).1 (hnone k hk (Nat.lt_succ_of_le hle))⟩⟩

/-- Settles O31: from 0 every slot stays at 0, and from another word no slot reaches it (R106). -/
theorem zeroWordEpisodes : Obligations.ZeroWordEpisodes := by
  refine fun budget hbudget => ⟨?_, fun target htarget => ?_, fun startWord hstart => ?_⟩
  · refine episode_of_hit le_rfl (firstOffset_le hbudget) ?_ fun k hk hlt => absurd hk hlt.not_ge
    exact (hitAfter_eq_some _ _ _ _).2 ⟨advN_zero_state _ _, fun j hj => absurd hj (Fin.not_lt_zero j)⟩
  · refine episode_of_no_hit hbudget fun k _ _ => (hitAfter_eq_none _ _ _).2 fun i => ?_
    rw [advN_zero_state]
    exact htarget.symm
  · exact episode_of_no_hit hbudget fun k _ _ => (hitAfter_eq_none _ _ _).2 fun i =>
      mt (advN_eq_zero_iff (catRead_getLsbD_sixteen i) k startWord).1 hstart

/-! ### The tick rules and the whole-episode function (R140, R141) -/

/-- The unit is Searching, `n` ticks into the episode of `request`. -/
structure InEpisode (request : StartRequest) (n : Nat) (s : State) : Prop where
  searching : s.su.state = .searching
  target : s.su.target = request.targetWord
  counter : s.su.ticksRemaining + n = request.tickBudget
  follow : ∀ i : Slot, s.su.slots[i] = advN (catRead i) n request.startWord

section
variable {request : StartRequest} {s : State} {n : Nat}

theorem beginEpisode_inEpisode (hmax : request.tickBudget ≤ s.params.maxB) :
    InEpisode request 0 (beginEpisode request s) :=
  ⟨rfl, rfl, truncCw_of_lt hmax, seedSlots_get request.startWord⟩

theorem InEpisode.tickDown_eq (h : InEpisode request n s) (hn : n < request.tickBudget) :
    tickDown s = request.tickBudget - (n + 1) := by
  have hcounter := h.counter
  rw [tickDown_of_pos (by omega)]
  omega

/-- The comparison is made in the ticks whose offset the whole-episode function tests (R134). -/
theorem InEpisode.in_window_iff (h : InEpisode request n s) (hn : n < request.tickBudget) :
    tickDown s < window ↔ firstOffset request.tickBudget ≤ n + 1 := by
  rw [h.tickDown_eq hn, firstOffset_eq, window]
  omega

/-- The slots compared are those that the whole-episode function tests. -/
theorem InEpisode.lowestHit_eq (h : InEpisode request n s) :
    lowestHit (advanceSlots s.su.slots) s.su.target = hitAfter request.startWord request.targetWord (n + 1) := by
  ext i
  simp only [lowestHit_eq_some, hitAfter_eq_some, advanceSlots_follow h.follow, h.target]

theorem InEpisode.searchTick_continues (h : InEpisode request n s) (hn : n + 1 < request.tickBudget)
    (hmiss : firstOffset request.tickBudget ≤ n + 1 →
      hitAfter request.startWord request.targetWord (n + 1) = none) :
    InEpisode request (n + 1) (searchTick s) := by
  have hdown := h.tickDown_eq (Nat.lt_of_succ_lt hn)
  have hsu := searchTick_su_of_outcome (s := s) <| searchOutcome_continued.2
    ⟨by omega, fun hwindow => h.lowestHit_eq.trans (hmiss ((h.in_window_iff (Nat.lt_of_succ_lt hn)).1 hwindow))⟩
  obtain ⟨hslots, hticks, htarget, -, -⟩ := searchTick_episode s
  exact {
    searching := by rw [hsu, settle_continued]; exact h.searching
    target := htarget.trans h.target
    counter := by rw [hticks, hdown]; exact Nat.sub_add_cancel hn.le
    follow := fun i => by rw [hslots]; exact advanceSlots_follow h.follow i }

theorem InEpisode.searchTick_matches {i : Slot} (h : InEpisode request n s) (hn : n < request.tickBudget)
    (htested : firstOffset request.tickBudget ≤ n + 1)
    (hhit : hitAfter request.startWord request.targetWord (n + 1) = some i) :
    (searchTick s).su.state = .idle ∧ (searchTick s).su.matched = true ∧ (searchTick s).su.matchedIndex = indexOf i := by
  rw [searchTick_su_of_outcome (searchOutcome_matched.2
    ⟨(h.in_window_iff hn).2 htested, h.lowestHit_eq.trans hhit⟩)]
  exact ⟨rfl, rfl, rfl⟩

theorem InEpisode.searchTick_times_out (h : InEpisode request n s) (hn : n + 1 = request.tickBudget)
    (hmiss : hitAfter request.startWord request.targetWord (n + 1) = none) :
    (searchTick s).su.state = .idle ∧ (searchTick s).su.matched = false := by
  have hdown := h.tickDown_eq (by omega)
  rw [searchTick_su_of_outcome (searchOutcome_timedOut.2 ⟨by omega, h.lowestHit_eq.trans hmiss⟩)]
  exact ⟨rfl, rfl⟩

/-- The episode runs on to the first tested offset with a hit, or to the last tick of the budget. -/
theorem inEpisode_iterate (hmax : request.tickBudget ≤ s.params.maxB) (hn : n < request.tickBudget)
    (hmiss : NoHitBefore request.startWord request.targetWord request.tickBudget (n + 1)) :
    InEpisode request n (searchTick^[n] (beginEpisode request s)) := by
  induction n with
  | zero => exact beginEpisode_inEpisode hmax
  | succ n ih =>
    rw [Function.iterate_succ_apply']
    exact (ih (Nat.lt_of_succ_lt hn) (hmiss.mono (Nat.le_succ _))).searchTick_continues hn fun htested =>
      hmiss (n + 1) htested (Nat.lt_succ_self _)

end

theorem searchTick_iterate_only (n : Nat) (s : State) : OnlySu s (searchTick^[n] s) := by
  induction n with
  | zero => exact .refl s
  | succ n ih => rw [Function.iterate_succ_apply']; exact ih.trans (searchTick_only _)

theorem runOps_suSteps (n : Nat) (s : State) : runOps (List.replicate n .suStep) s = .next (searchTick^[n] s) := by
  induction n generalizing s with
  | zero => rfl
  | succ n ih => exact ih (searchTick s)

/-- An accepted start and `n` ticks of its episode. -/
theorem runOps_suStart_suSteps {request : StartRequest} {s : State} (hpos : 1 ≤ request.tickBudget)
    (hmax : request.tickBudget ≤ s.params.maxB) (n : Nat) :
    runOps (.suStart request :: List.replicate n .suStep) s = .next (searchTick^[n] (beginEpisode request s)) := by
  rw [runOps, exec_suStart_accepted hpos hmax]
  exact runOps_suSteps n _

/-- Settles O29: before the tick the function names there is no tested hit, so the episode runs on; in that tick the rules find
the function's slot, or the budget ends. -/
theorem ticksAgreeWithEpisode : Obligations.TicksAgreeWithEpisode := by
  intro request s hpos hmax
  have hrun := runOps_suStart_suSteps hpos hmax
  have honly n := (beginEpisode_only request s).trans (searchTick_iterate_only n _)
  obtain ⟨i, n, hepisode, hlo, hle, hhit, hbefore⟩ | ⟨hepisode, hnone⟩ :=
    episode_cases request.startWord request.targetWord hpos
  · rw [hepisode]
    refine ⟨⟨_, hrun n, ?_⟩, fun k hk =>
      ⟨_, hrun k, (inEpisode_iterate hmax (hk.trans_le hle) (hbefore.mono hk)).searching⟩⟩
    obtain ⟨m, rfl⟩ := Nat.exists_eq_add_of_le' ((firstOffset_pos _).trans hlo)
    obtain ⟨hidle, hmatched, hindex⟩ := (inEpisode_iterate hmax hle hbefore).searchTick_matches hle hlo hhit
    rw [← Function.iterate_succ_apply' searchTick] at hidle hmatched hindex
    refine ⟨hidle, ?_, fun h => absurd h (by simp), honly _⟩
    rintro _ ⟨⟩
    exact ⟨hmatched, hindex⟩
  · rw [hepisode]
    refine ⟨⟨_, hrun request.tickBudget, ?_⟩, fun k hk =>
      ⟨_, hrun k, (inEpisode_iterate hmax hk (hnone.mono (Nat.succ_le_succ hk.le))).searching⟩⟩
    obtain ⟨m, hm⟩ := Nat.exists_eq_add_of_le' hpos
    have hlast : hitAfter request.startWord request.targetWord (m + 1) = none :=
      hnone _ (hm ▸ firstOffset_le hpos) (by omega)
    obtain ⟨hidle, hmatched⟩ :=
      (inEpisode_iterate (n := m) hmax (by omega) (hnone.mono (by omega))).searchTick_times_out hm.symm hlast
    rw [← Function.iterate_succ_apply' searchTick, Nat.succ_eq_add_one, ← hm] at hidle hmatched
    exact ⟨hidle, fun _ h => absurd h (by simp), fun _ => hmatched, honly _⟩

/-! ### The index that leaves (R134, R136, R168) -/

/-- A slot's number passes the 5-bit register and the 6-bit code unchanged. -/
theorem zeroExtend_indexOf_toNat (i : Slot) : (BitVec.zeroExtend 6 (indexOf i)).toNat = i.val := by
  rw [BitVec.zeroExtend, BitVec.toNat_setWidth_of_le (by decide), indexOf, BitVec.toNat_ofNat]
  exact Nat.mod_eq_of_lt i.isLt

/-- Settles O60: the code that leaves is that of the match reported, which the invariant makes true of the slots, and the slots
hold what their polynomials give after the ticks of the episode. -/
theorem emittedIndexIsATrueMatch : Obligations.EmittedIndexIsATrueMatch := by
  rintro s t record ⟨-, -, -, ⟨-, hmatch⟩, -, -, hcode⟩ hstep hemitted hne
  obtain ⟨-, hstate, -, rfl⟩ := step_emitted hstep hemitted
  obtain ⟨hmatched, hpoly, htarget⟩ := (hcode hstate).resolve_left hne
  obtain ⟨-, hwindow, hticks, hfollow, i, hindex, hhit, hlowest⟩ := hmatch hmatched
  rw [window] at hwindow
  rw [hfollow i, htarget] at hhit
  refine ⟨i, s.su.epBudget - s.su.ticksRemaining, ?_, by omega, by omega, by omega, hhit, fun j hj => ?_⟩
  · rw [outRecord, hpoly, hindex, zeroExtend_indexOf_toNat]
  · have hmiss := hlowest j hj
    rwa [hfollow j, htarget] at hmiss

end Sys2Proof.Machine
end

section
/-! PROOFS. The Pulse Identification Controller (R160 to R175). What each of its operations answers; then what a tick without reset
shows on its ports; then a pulse from Idle to Emit. There the Search Unit, run alone beside the CORE, stays in agreement with the
CORE's, so the whole-episode function says when the search ends and with which code. -/

namespace Sys2Proof.Machine

/-! ### The writes of an operation -/

theorem setPicPorts_only (s : State) (ports : PicPorts) : OnlyPic s (s.setPicPorts ports) :=
  ⟨rfl, rfl, rfl, rfl, rfl, rfl, rfl, rfl⟩

theorem setPic_setPicPorts_only (s : State) (pic : PicRegs) (ports : PicPorts) :
    OnlyPic s ((s.setPic pic).setPicPorts ports) :=
  ⟨rfl, rfl, rfl, rfl, rfl, rfl, rfl, rfl⟩

/-- Settles O33: only the ports are written. -/
theorem picWaitPulseKeepsRegisters : Obligations.PicWaitPulseKeepsRegisters := fun r b s =>
  ⟨decode_pic false false false r b _, _, rfl, rfl, rfl, rfl, setPicPorts_only s _⟩

/-- Settles O34: only the ports are written. -/
theorem picWaitSearchKeepsRegisters : Obligations.PicWaitSearchKeepsRegisters := fun v r s =>
  ⟨decode_pic true false v r true _, _, rfl, rfl, rfl, rfl, setPicPorts_only s _⟩

/-! ### Accepting (R162) -/

/-- A `pulseWidth` that fits its port passes it untruncated (R76). -/
theorem truncPw_of_lt {p : Params} {n : Nat} (h : n < 2 ^ p.pwBits) : truncPw p n = n := Nat.mod_eq_of_lt h

/-- Settles O35: the one field that the port could cut passes it unchanged. -/
theorem picAcceptTakesRecord : Obligations.PicAcceptTakesRecord := by
  refine fun r b pulse s => ⟨decode_pic false false true r b _, fun hfit => ⟨_, rfl, ?_⟩⟩
  rw [truncPw_of_lt hfit]
  exact ⟨rfl, rfl, rfl, setPic_setPicPorts_only s _ _⟩

/-! ### The predicted budget (R163, R164) -/

theorem predictedBudget_eq (timestamp lastTimestamp : Timestamp) :
    predictedBudget timestamp lastTimestamp = (delta timestamp lastTimestamp).toNat / 4 + 2 := by
  rw [predictedBudget, Nat.shiftRight_eq_div_pow]; rfl

/-- Settles O36: the difference is the one modulo `2^24`, so a quarter of it is below `2^22`. -/
theorem predictedBudgetIsExact : Obligations.PredictedBudgetIsExact := by
  intro timestamp lastTimestamp
  have hlt := (delta timestamp lastTimestamp).isLt
  refine ⟨?_, two_le_predictedBudget _ _, by rw [predictedBudget_eq]; omega⟩
  rw [predictedBudget_eq, delta, BitVec.toNat_sub, Nat.add_comm (2 ^ 24 - _)]

/-- Settles O39: at `CW` = 10 each threshold is the one before it, taken through the addition and through the division by 4. -/
theorem outOfRangeIsAboveMaxBudget : Obligations.OutOfRangeIsAboveMaxBudget := by
  refine fun s => ⟨outOfRange_iff s, fun hcw => ?_⟩
  have hmax : s.params.maxB = 1023 := by rw [Params.maxB, hcw]; rfl
  rw [outOfRange_iff, hmax, predictedBudget_eq, Nat.shiftRight_eq_div_pow]
  omega

theorem outOfRange_eq_false_iff (s : State) :
    outOfRange s = false ↔ predictedBudget s.pic.cur.timestamp s.pic.lastTimestamp ≤ s.params.maxB := by
  rw [← Bool.not_eq_true, outOfRange_iff, not_lt]

/-! ### Predicting (R165, R166) -/

/-- A controller that asks for nothing shows no request (R160). -/
theorem picPortsOf_start_of_not_startValid {s : State} (consumed : Option PulseRecord) (emitted : Option IdentifiedPulse)
    (h : ¬startValid s = true) : (picPortsOf s consumed emitted).start = none :=
  if_neg h

/-- A request shows on the port with its budget untruncated (R160, R166). -/
theorem picPortsOf_start_of_startValid {s : State} (consumed : Option PulseRecord) (emitted : Option IdentifiedPulse)
    (h : startValid s = true) : (picPortsOf s consumed emitted).start = some (startOperands s) :=
  if_pos h

/-- The request in full, where the budget is in range (R166). -/
theorem startOperands_eq {s : State} (hrange : outOfRange s = false) :
    startOperands s =
      { startWord := s.pic.lastWord, targetWord := s.pic.cur.beamWord
        tickBudget := predictedBudget s.pic.cur.timestamp s.pic.lastTimestamp } := by
  rw [← startOperands_tickBudget hrange, startOperands]

/-- Settles O37: out of range the controller takes the degrade path and asks for nothing. -/
theorem picPredictSkipsOutOfRange : Obligations.PicPredictSkipsOutOfRange := by
  refine fun v r b s => ⟨decode_pic false true v r b _, fun _ hbudget => ⟨_, rfl, ?_⟩⟩
  have hrange : outOfRange s = true := (outOfRange_iff s).2 hbudget
  refine ⟨by simp only [hrange]; rfl, ?_, rfl, rfl, setPic_setPicPorts_only s _ _⟩
  exact picPortsOf_start_of_not_startValid _ _ (by simp [startValid_iff, hrange])

/-- Settles O38: in range the request stands on the start port in the controller's own tick, where an idle Search Unit reads it. -/
theorem picPredictRequestsSearch : Obligations.PicPredictRequestsSearch := by
  refine fun v r b s => ⟨decode_pic false true v r b _, fun hstate hbudget => ⟨_, rfl, ?_⟩⟩
  have hrange : outOfRange s = false := (outOfRange_eq_false_iff s).2 hbudget
  have hvalid : startValid s = true := (startValid_iff s).2 ⟨hstate, hrange⟩
  have hstart := picPortsOf_start_of_startValid none none hvalid
  refine ⟨by simp only [hrange]; rfl, startOperands_eq hrange ▸ hstart, two_le_predictedBudget _ _,
    fun ins hother hidle => ⟨_, hstart, ?_⟩, rfl, rfl, setPic_setPicPorts_only s _ _⟩
  obtain ⟨-, hselect, -⟩ := searchUnitSelection s ins
  exact hselect _ hidle ((startPort_of_no_other hother).trans (if_pos hvalid))

/-! ### Collecting (R168) -/

/-- Both paths of `PIC.COLLECT` go to Emit with the code of the result. -/
theorem exec_picCollect (v r found : Bool) (index : CatalogIndex) (s : State) :
    exec (.picCollect v r found index) s =
      .next ((s.setPic { s.pic with polyIndex := polyIndexOf found index, state := .emit }).setPicPorts
        (picPortsOf s none none)) := by
  cases found <;> rfl

/-- An index keeps its number in the 6 bits of the code (R168). -/
theorem polyIndexOf_true_toNat (index : CatalogIndex) : (polyIndexOf true index).toNat = index.toNat := by
  rw [polyIndexOf, if_pos rfl, BitVec.zeroExtend, BitVec.toNat_setWidth_of_le (by decide)]

/-- Settles O40: the code is that of the result, the match's index or `0x3F`. -/
theorem picCollectTakesCode : Obligations.PicCollectTakesCode := by
  refine fun v r found index s =>
    ⟨decode_pic true false v r false _, _, exec_picCollect v r found index s, ?_, ?_, rfl, rfl, rfl,
      setPic_setPicPorts_only s _ _⟩
  · rintro rfl
    exact polyIndexOf_true_toNat index
  · rintro rfl
    rfl

/-! ### Emitting (R169 to R171) -/

/-- In Emit the record stands on `out` (R160). -/
theorem picPortsOf_of_emit {s : State} (consumed : Option PulseRecord) (emitted : Option IdentifiedPulse)
    (hstate : s.pic.state = .emit) :
    (picPortsOf s consumed emitted).pulseReady = false ∧ (picPortsOf s consumed emitted).outValid = true ∧
      (picPortsOf s consumed emitted).out = some (outRecord s) := by
  simp [picPortsOf, pulseReady, outValid, hstate]

/-- Settles O41: the latch writes its two registers and nothing else, and in Emit the record stands on `out`. -/
theorem picHoldEmitHoldsRecord : Obligations.PicHoldEmitHoldsRecord := by
  refine fun v b s => ⟨decode_pic true true v false b _, fun hstate => ⟨_, rfl, rfl, ?_⟩⟩
  obtain ⟨hready, hvalid, hout⟩ := picPortsOf_of_emit none none hstate
  exact ⟨hout, hready, hvalid, rfl, rfl, setPic_setPicPorts_only s _ _⟩

/-- Settles O42: the record on `out` is the one the sink takes. -/
theorem picEmitHandsRecordOver : Obligations.PicEmitHandsRecordOver := by
  refine fun v b s => ⟨decode_pic true true v true b _, fun hstate => ⟨_, rfl, rfl, rfl, ?_⟩⟩
  obtain ⟨hready, -, hout⟩ := picPortsOf_of_emit none (some (outRecord s)) hstate
  exact ⟨hout, hready, rfl, setPic_setPicPorts_only s _ _⟩

/-! ### The ports of a tick (R160, R173, R174) -/

section
variable {s t : State}

/-- Without a reset the controller's operation, decoded from the pre-state, leaves in its block what it gives on the pre-state
(R13). -/
theorem step_pic_operation (hrst : (fetchTick s).rst = false) (hstep : step s = .next t) :
    ∃ i u, decode (picEncoded s (fetchTick s)) = .ok i ∧ (encode i).block = .pic ∧ exec i s = .next u ∧
      t.pic = u.pic ∧ t.picPorts = u.picPorts := by
  obtain ⟨-, ⟨i, u, hi, hu, hwrites⟩, -⟩ := tickIsSimultaneous s t hrst hstep
  obtain ⟨j, hj, hblock⟩ := decode_picEncoded s (fetchTick s)
  obtain rfl : j = i := Except.ok.inj (hj.symm.trans hi)
  exact ⟨j, u, hi, hblock, hu, hwrites⟩

theorem step_pic_of_decode {i : Instr} {u : State} (hrst : (fetchTick s).rst = false) (hstep : step s = .next t)
    (hdecode : decode (picEncoded s (fetchTick s)) = .ok i) (hexec : exec i s = .next u) :
    t.pic = u.pic ∧ t.picPorts = u.picPorts := by
  obtain ⟨j, w, hj, -, hw, hwrites⟩ := step_pic_operation hrst hstep
  obtain rfl : i = j := Except.ok.inj (hdecode.symm.trans hj)
  obtain rfl : u = w := Host.Outcome.next.inj (hexec.symm.trans hw)
  exact hwrites

/-- What is not the record consumed or emitted shows the pre-state, whatever the controller's operation (R160). -/
theorem exec_picPorts {i : Instr} {u : State} (hi : (encode i).block = .pic) (h : exec i s = .next u) :
    ∃ consumed emitted, u.picPorts = picPortsOf s consumed emitted := by
  cases i with
  | picWaitPulse | picAccept | picPredict | picWaitSearch | picCollect | picHoldEmit | picEmit =>
    cases h
    exact ⟨_, _, rfl⟩
  | _ => cases hi

theorem step_pulseReady (hrst : (fetchTick s).rst = false) (hstep : step s = .next t) :
    t.picPorts.pulseReady = pulseReady s.pic := by
  obtain ⟨i, u, -, hblock, hu, -, hports⟩ := step_pic_operation hrst hstep
  obtain ⟨_, _, hshown⟩ := exec_picPorts hblock hu
  rw [hports, hshown]
  rfl

/-- `PIC.ACCEPT` is the only one of the controller's operations that consumes a record. -/
theorem exec_pic_consumed {i : Instr} {u : State} {pulse : PulseRecord} (hi : (encode i).block = .pic)
    (h : exec i s = .next u) (hconsumed : u.picPorts.consumed = some pulse) :
    ∃ r b offered, i = .picAccept r b offered := by
  cases i with
  | picAccept r b offered => exact ⟨r, b, offered, rfl⟩
  | picWaitPulse | picPredict | picWaitSearch | picCollect | picHoldEmit | picEmit =>
    cases h
    cases hconsumed
  | _ => cases hi

/-- `PIC.ACCEPT` is selected in Idle only, of the record presented (R74). -/
theorem decode_picEncoded_picAccept {ins : TickInputs} {r b : Bool} {offered : PulseRecord}
    (h : decode (picEncoded s ins) = .ok (.picAccept r b offered)) :
    s.pic.state = .idle ∧ ins.pulse = some offered := by
  rw [picEncoded, decode_pic] at h
  cases hstate : s.pic.state with
  | idle =>
    cases hpulse : ins.pulse with
    | none => rw [hstate, hpulse] at h; cases h
    | some pulse => rw [hstate, hpulse] at h; cases h; exact ⟨rfl, rfl⟩
  | predictWindow => rw [hstate] at h; cases h
  | searching => cases hbusy : busy s.su <;> rw [hstate, hbusy] at h <;> cases h
  | emit => cases hsink : ins.sinkReady <;> rw [hstate, hsink] at h <;> cases h

/-- A record is consumed in Idle only, cut to its port, and the controller leaves Idle with it (R162). -/
theorem step_consumed {pulse : PulseRecord} (hrst : (fetchTick s).rst = false) (hstep : step s = .next t)
    (hconsumed : t.picPorts.consumed = some pulse) :
    s.pic.state = .idle ∧ t.pic.state = .predictWindow ∧ t.pic.cur = pulse ∧
      ∃ offered, (fetchTick s).pulse = some offered ∧
        pulse = { offered with pulseWidth := truncPw s.params offered.pulseWidth } := by
  obtain ⟨i, u, hi, hblock, hu, hpic, hports⟩ := step_pic_operation hrst hstep
  rw [hports] at hconsumed
  obtain ⟨r, b, offered, rfl⟩ := exec_pic_consumed hblock hu hconsumed
  obtain ⟨hstate, hpulse⟩ := decode_picEncoded_picAccept hi
  cases hu
  cases hconsumed
  exact ⟨hstate, by rw [hpic]; rfl, by rw [hpic]; rfl, offered, hpulse, rfl⟩

/-- In Emit with a ready sink the record in hand leaves (R171). -/
theorem step_emitted_of_emit (hrst : (fetchTick s).rst = false) (hstep : step s = .next t) (hstate : s.pic.state = .emit)
    (hsink : (fetchTick s).sinkReady = true) : t.picPorts.emitted = some (outRecord s) := by
  obtain ⟨-, -, -, -, -, -, hselect⟩ := controllerSelection s (fetchTick s)
  obtain ⟨-, hports⟩ := step_pic_of_decode hrst hstep (hselect hstate hsink) rfl
  rw [hports]
  rfl

/-- While a record is in hand the controller keeps it (R173). -/
theorem PicMove.cur_of_not_idle {ins : TickInputs} {next : PicRegs} (hmove : PicMove s ins next)
    (hstate : s.pic.state ≠ .idle) : next.cur = s.pic.cur := by
  cases hmove with
  | accept _ hidle => exact absurd hidle hstate
  | waitPulse _ _ hnext | skip _ _ hnext | request _ _ hnext | waitSearch _ _ hnext | collectMatch _ _ _ hnext
  | collectTimeout _ _ _ hnext | holdEmit _ _ hnext | emit _ _ hnext => subst hnext; rfl

/-- The way back to Idle is from Emit, with a ready sink (R171). -/
theorem PicMove.idle_iff {ins : TickInputs} {next : PicRegs} (hmove : PicMove s ins next)
    (hstate : s.pic.state ≠ .idle) : next.state = .idle ↔ s.pic.state = .emit ∧ ins.sinkReady = true := by
  cases hmove with
  | waitPulse hidle | accept _ hidle => exact absurd hidle hstate
  | skip hnow _ hnext | request hnow _ hnext | waitSearch hnow _ hnext | collectMatch hnow _ _ hnext
  | collectTimeout hnow _ _ hnext => simp [hnext, hnow]
  | holdEmit hnow hsink hnext | emit hnow hsink hnext => simp [hnext, hnow, hsink]

/-- The latches are written in Emit only (R170). -/
theorem PicMove.latches_of_not_emit {ins : TickInputs} {next : PicRegs} (hmove : PicMove s ins next)
    (hstate : s.pic.state ≠ .emit) :
    next.lastTimestamp = s.pic.lastTimestamp ∧ next.lastWord = s.pic.lastWord := by
  cases hmove with
  | holdEmit hemit | emit hemit => exact absurd hemit hstate
  | waitPulse _ _ hnext | accept _ _ _ hnext | skip _ _ hnext | request _ _ hnext | waitSearch _ _ hnext
  | collectMatch _ _ _ hnext | collectTimeout _ _ _ hnext => rw [hnext]; exact ⟨rfl, rfl⟩

/-- Every tick spent in Emit writes the latches from the record in hand (R170). -/
theorem PicMove.latches_of_emit {ins : TickInputs} {next : PicRegs} (hmove : PicMove s ins next)
    (hstate : s.pic.state = .emit) :
    next.lastTimestamp = s.pic.cur.timestamp ∧ next.lastWord = s.pic.cur.beamWord := by
  cases hmove with
  | holdEmit _ _ hnext | emit _ _ hnext => rw [hnext]; exact ⟨rfl, rfl⟩
  | waitPulse hnow | accept _ hnow | skip hnow | request hnow | waitSearch hnow | collectMatch hnow
  | collectTimeout hnow => exact absurd (hstate.symm.trans hnow) (by decide)

end

/-- Settles O44: the ports by the lemmas on what a tick shows, the registers by the controller's moves. -/
theorem controllerSerialisesPulses : Obligations.ControllerSerialisesPulses := by
  intro s t hrst hstep
  have hmove := step_picMove hrst hstep
  refine ⟨step_pulseReady hrst hstep, fun _ => step_consumed hrst hstep,
    fun hstate => ⟨?_, hmove.cur_of_not_idle hstate, ?_⟩,
    fun hstate => ⟨?_, hmove.latches_of_not_emit hstate⟩, hmove.latches_of_emit⟩
  · refine Option.eq_none_iff_forall_ne_some.2 fun pulse hconsumed => ?_
    obtain ⟨hidle, -⟩ := step_consumed hrst hstep hconsumed
    exact hstate hidle
  · rw [hmove.idle_iff hstate]
    refine ⟨fun ⟨hemit, hsink⟩ => step_emitted_of_emit hrst hstep hemit hsink, fun hemitted => ?_⟩
    obtain ⟨-, hemit, hsink, -⟩ := step_emitted hstep hemitted
    exact ⟨hemit, hsink⟩
  · refine Option.eq_none_iff_forall_ne_some.2 fun record hemitted => ?_
    obtain ⟨-, hemit, -⟩ := step_emitted hstep hemitted
    exact hstate hemit

/-! ### A tick without a refusal (R144, R190) -/

section
variable {s : State}

/-- No reset and no second requester in the coming ticks (R33). -/
def Undisturbed (s : State) : Prop := ∀ ins ∈ s.script, ins.rst = false ∧ ins.start = none

theorem Undisturbed.assembled (h : Undisturbed s) : Assembled s := fun ins hins => (h ins hins).2

theorem Undisturbed.fetchTick_rst (h : Undisturbed s) : (fetchTick s).rst = false := by
  cases hscript : s.script with
  | nil => simp only [fetchTick, hscript]; rfl
  | cons ins rest =>
    simp only [fetchTick, hscript]
    exact (h ins (hscript ▸ List.mem_cons_self)).1

/-- The controller's request has a budget that R144 does not refuse and that fits the port (R163, R166). -/
theorem startOperands_budget (hrange : outOfRange s = false) :
    1 ≤ (startOperands s).tickBudget ∧ (startOperands s).tickBudget ≤ s.params.maxB := by
  rw [startOperands_tickBudget hrange]
  exact ⟨Nat.le_of_succ_le (two_le_predictedBudget _ _), (outOfRange_eq_false_iff s).1 hrange⟩

/-- No operation of the controller is refused. -/
theorem exec_pic_answers {i : Instr} (hi : (encode i).block = .pic) (v : State) : ∃ w, exec i v = .next w := by
  cases i with
  | picWaitPulse | picAccept | picPredict | picWaitSearch | picCollect | picHoldEmit | picEmit => exact ⟨_, rfl⟩
  | _ => cases hi

/-- The Search Unit's operation is not refused where a start it would accept has a budget on the port (R144). -/
theorem exec_su_answers {ins : TickInputs} {i : Instr} {v : State} (hdecode : decode (suEncoded s ins) = .ok i)
    (hparams : v.params = s.params)
    (hbudget : ∀ request, s.su.state = .idle → startPort s ins = some request →
      truncCw s.params request.tickBudget ≠ 0) : ∃ w, exec i v = .next w := by
  obtain ⟨hhold, hstart, hstep, hreject⟩ := searchUnitSelection s ins
  cases hstate : s.su.state with
  | idle =>
    cases hport : startPort s ins with
    | none => cases hdecode.symm.trans (hhold hstate hport); exact ⟨_, rfl⟩
    | some request =>
      cases hdecode.symm.trans (hstart request hstate hport)
      exact ⟨_, if_neg (hparams ▸ hbudget request hstate hport)⟩
  | searching =>
    cases hport : startPort s ins with
    | none => cases hdecode.symm.trans (hstep hstate hport); exact ⟨_, rfl⟩
    | some request => cases hdecode.symm.trans (hreject request hstate hport); exact ⟨_, rfl⟩

/-- A tick without reset completes where a start it would accept has a budget on the port. -/
theorem step_answers (hrst : (fetchTick s).rst = false)
    (hbudget : ∀ request, s.su.state = .idle → startPort s (fetchTick s) = some request →
      truncCw s.params request.tickBudget ≠ 0) : ∃ t, step s = .next t := by
  choose op hop heff using exec_ba_selected (fetchTick s)
  obtain ⟨suOp, hsuOp, -⟩ := decode_suEncoded s (fetchTick s)
  obtain ⟨picOp, hpicOp, hpicBlock⟩ := decode_picEncoded s (fetchTick s)
  obtain ⟨a, hlines, -, -, hframe⟩ := runOps_lines op _ heff (linesOf s.params) (linesOf_nodup _) s
    fun line => (mem_linesOf _ line).1
  obtain ⟨b, hb⟩ := exec_su_answers (v := a) hsuOp (by rw [hframe]) hbudget
  obtain ⟨c, hc⟩ := exec_pic_answers hpicBlock b
  obtain ⟨hnext, -⟩ := stepRunsDecodedOperations s _ (tickOps_of_decode hrst hop hsuOp hpicOp)
  exact ⟨_, hnext c (by rw [runOps_append_of_next hlines]; simp only [runOps, hb, hc])⟩

/-- Without a reset and a second requester every tick completes: the controller's own budget is at least 2. -/
theorem Undisturbed.step_answers (h : Undisturbed s) : ∃ t, step s = .next t ∧ Undisturbed t := by
  obtain ⟨t, hstep⟩ := Machine.step_answers h.fetchTick_rst fun request _ hport => by
    rw [startPort_of_no_other h.assembled.fetchTick_start] at hport
    split at hport
    · next hvalid =>
      obtain ⟨-, hrange⟩ := (startValid_iff s).1 hvalid
      obtain rfl := Option.some.inj hport
      obtain ⟨hpos, hmax⟩ := startOperands_budget hrange
      rw [truncCw_of_lt hmax]
      omega
    · cases hport
  exact ⟨t, hstep, fun ins hins => h ins (List.mem_of_mem_tail (step_script hstep ▸ hins))⟩

/-! ### The ticks of one pulse (R161 to R168) -/

/-- `PIC.ACCEPT`, with the Search Unit idle. -/
theorem Undisturbed.accept_tick {pulse : PulseRecord} (h : Undisturbed s) (hidle : s.su.state = .idle)
    (hstate : s.pic.state = .idle) (hpulse : (fetchTick s).pulse = some pulse)
    (hfit : pulse.pulseWidth < 2 ^ s.params.pwBits) :
    ∃ t, step s = .next t ∧ Undisturbed t ∧ t.params = s.params ∧ t.su.state = .idle ∧
      t.pic = { s.pic with cur := pulse, state := .predictWindow } := by
  obtain ⟨t, hstep, hafter⟩ := h.step_answers
  obtain ⟨-, hselect, -⟩ := controllerSelection s (fetchTick s)
  obtain ⟨-, haccept⟩ := picAcceptTakesRecord (fetchTick s).sinkReady (s.su.state == .searching) pulse s
  obtain ⟨u, hexec, hpic, -⟩ := haccept hfit
  obtain ⟨hwrite, -⟩ := step_pic_of_decode h.fetchTick_rst hstep (hselect pulse hstate hpulse) hexec
  have hsu := step_su_of_not_startValid h.assembled hidle (by simp [startValid_iff, hstate]) h.fetchTick_rst hstep
  exact ⟨t, hstep, hafter, step_params hstep, hsu ▸ hidle, hwrite.trans hpic⟩

/-- `PIC.PREDICT` out of range. -/
theorem Undisturbed.skip_tick (h : Undisturbed s) (hstate : s.pic.state = .predictWindow)
    (hrange : outOfRange s = true) :
    ∃ t, step s = .next t ∧ t.pic = { s.pic with polyIndex := unident, state := .emit } := by
  obtain ⟨t, hstep, -⟩ := h.step_answers
  obtain ⟨-, -, hselect, -⟩ := controllerSelection s (fetchTick s)
  obtain ⟨-, hskip⟩ := picPredictSkipsOutOfRange _ _ _ s
  obtain ⟨u, hexec, hpic, -⟩ := hskip hstate ((outOfRange_iff s).1 hrange)
  obtain ⟨hwrite, -⟩ := step_pic_of_decode h.fetchTick_rst hstep (hselect hstate) hexec
  exact ⟨t, hstep, hwrite.trans hpic⟩

/-- `PIC.COLLECT`, of what the Search Unit shows. -/
theorem Undisturbed.collect_tick (h : Undisturbed s) (hidle : s.su.state = .idle) (hstate : s.pic.state = .searching) :
    ∃ t, step s = .next t ∧
      t.pic = { s.pic with polyIndex := polyIndexOf s.su.matched s.su.matchedIndex, state := .emit } := by
  obtain ⟨t, hstep, -⟩ := h.step_answers
  obtain ⟨-, -, -, -, hselect, -⟩ := controllerSelection s (fetchTick s)
  obtain ⟨hwrite, -⟩ := step_pic_of_decode h.fetchTick_rst hstep (hselect hstate hidle) (exec_picCollect _ _ _ _ s)
  exact ⟨t, hstep, hwrite⟩

/-! ### The search among them (R140, R166, R167) -/

/-- The two states agree on all that a Search Unit operation reads and writes but the ports. -/
structure SameSearch (s v : State) : Prop where
  params : v.params = s.params
  su : v.su = s.su
  draws : v.draws = s.draws

/-- A step of the CORE and the Search Unit's own operation, run alone, keep the two states in agreement. -/
theorem SameSearch.step {t v w : State} {i : Instr} (h : SameSearch s v) (hrst : (fetchTick s).rst = false)
    (hstep : step s = .next t) (hdecode : decode (suEncoded s (fetchTick s)) = .ok i) (hexec : exec i v = .next w) :
    SameSearch t w := by
  obtain ⟨⟨j, u, hj, hu, hsu, -, hdraws⟩, -⟩ := tickIsSimultaneous s t hrst hstep
  obtain ⟨k, hk, hblock⟩ := decode_suEncoded s (fetchTick s)
  obtain rfl : i = k := Except.ok.inj (hdecode.symm.trans hk)
  obtain rfl : i = j := Except.ok.inj (hdecode.symm.trans hj)
  obtain ⟨honly, x, hx, hsu', -, hdraws'⟩ := exec_su_local hblock h.params h.su h.draws hexec
  obtain rfl : u = x := Host.Outcome.next.inj (hu.symm.trans hx)
  exact ⟨honly.1.trans (h.params.trans (step_params hstep).symm), hsu'.trans hsu.symm, hdraws'.trans hdraws.symm⟩

/-- `PIC.PREDICT` in range, in which an idle Search Unit starts on the request. -/
theorem Undisturbed.request_tick (h : Undisturbed s) (hidle : s.su.state = .idle)
    (hstate : s.pic.state = .predictWindow) (hrange : outOfRange s = false) :
    ∃ t, step s = .next t ∧ Undisturbed t ∧ t.pic = { s.pic with state := .searching } ∧
      SameSearch t (beginEpisode (startOperands s) s) := by
  obtain ⟨t, hstep, hafter⟩ := h.step_answers
  obtain ⟨hpos, hmax⟩ := startOperands_budget hrange
  obtain ⟨-, -, hselect, -⟩ := controllerSelection s (fetchTick s)
  obtain ⟨-, hrequest⟩ := picPredictRequestsSearch _ _ _ s
  obtain ⟨u, hexec, hpic, -⟩ := hrequest hstate ((outOfRange_eq_false_iff s).1 hrange)
  obtain ⟨hwrite, -⟩ := step_pic_of_decode h.fetchTick_rst hstep (hselect hstate) hexec
  have hport : startPort s (fetchTick s) = some (startOperands s) :=
    (startPort_of_no_other h.assembled.fetchTick_start).trans (if_pos ((startValid_iff s).2 ⟨hstate, hrange⟩))
  obtain ⟨-, hstart, -⟩ := searchUnitSelection s (fetchTick s)
  exact ⟨t, hstep, hafter, hwrite.trans hpic,
    SameSearch.step ⟨rfl, rfl, rfl⟩ h.fetchTick_rst hstep (hstart _ hidle hport)
      (exec_suStart_accepted hpos hmax)⟩

/-- `PIC.WAIT_SEARCH`, in which the Search Unit makes a tick of its episode. -/
theorem Undisturbed.wait_tick {v : State} (h : Undisturbed s) (hstate : s.pic.state = .searching)
    (hsame : SameSearch s v) (hbusy : v.su.state = .searching) :
    ∃ t, step s = .next t ∧ Undisturbed t ∧ t.pic = s.pic ∧ SameSearch t (searchTick v) := by
  obtain ⟨t, hstep, hafter⟩ := h.step_answers
  have hsu : s.su.state = .searching := hsame.su ▸ hbusy
  obtain ⟨-, -, -, hselect, -⟩ := controllerSelection s (fetchTick s)
  obtain ⟨hwrite, -⟩ := step_pic_of_decode h.fetchTick_rst hstep (hselect hstate hsu) rfl
  refine ⟨t, hstep, hafter, hwrite, ?_⟩
  obtain ⟨-, -, hsearch, hreject⟩ := searchUnitSelection s (fetchTick s)
  cases hport : startPort s (fetchTick s) with
  | none => exact hsame.step h.fetchTick_rst hstep (hsearch hsu hport) rfl
  | some request => exact hsame.step h.fetchTick_rst hstep (hreject request hsu hport) rfl

/-- The controller waits for as long as the Search Unit, run alone, stays in its episode. -/
theorem Undisturbed.wait_ticks {v : State} {n : Nat} (h : Undisturbed s) (hstate : s.pic.state = .searching)
    (hsame : SameSearch s v) (hbusy : ∀ k < n, (searchTick^[k] v).su.state = .searching) :
    ∃ t : State, Host.Core.run core n s = .next t ∧ Undisturbed t ∧ t.pic = s.pic ∧ SameSearch t (searchTick^[n] v) := by
  induction n generalizing s v with
  | zero => exact ⟨s, rfl, h, rfl, hsame⟩
  | succ n ih =>
    obtain ⟨u, hstep, hafter, hpic, hsameU⟩ := h.wait_tick hstate hsame (hbusy 0 n.succ_pos)
    obtain ⟨t, hrun, ht, hpicT, hsameT⟩ := ih hafter (hpic ▸ hstate) hsameU fun k hk => hbusy (k + 1) (Nat.succ_lt_succ hk)
    exact ⟨t, (run_succ_of_next core n s u hstep).trans hrun, ht, hpicT.trans hpic, hsameT⟩

/-- The code of an episode's result (R168, R175). -/
def codeOf : Option Slot → PolyIndex
  | some i => polyIndexOf true (indexOf i)
  | none => unident

/-- The Search Unit, run alone from an accepted start, is in its episode for the ticks of the whole-episode function, and then
shows the code of its result (R140, R141). -/
theorem search_shows_code {request : StartRequest} (hpos : 1 ≤ request.tickBudget)
    (hmax : request.tickBudget ≤ s.params.maxB) {result : EpisodeResult}
    (hresult : episode request.startWord request.targetWord request.tickBudget = result) :
    (∀ k < result.ticks, (searchTick^[k] (beginEpisode request s)).su.state = .searching) ∧
      ∃ t, searchTick^[result.ticks] (beginEpisode request s) = t ∧ t.su.state = .idle ∧
        polyIndexOf t.su.matched t.su.matchedIndex = codeOf result.found := by
  subst hresult
  have hrun := runOps_suStart_suSteps hpos hmax
  obtain ⟨⟨t, ht, hidle, hfound, hnone, -⟩, hbusy⟩ := ticksAgreeWithEpisode request s hpos hmax
  refine ⟨fun k hk => ?_, t, Host.Outcome.next.inj ((hrun _).symm.trans ht), hidle, ?_⟩
  · obtain ⟨u, hu, hstate⟩ := hbusy k hk
    rwa [Host.Outcome.next.inj ((hrun k).symm.trans hu)]
  · cases hcode : (episode request.startWord request.targetWord request.tickBudget).found with
    | none => rw [hnone hcode]; rfl
    | some i => obtain ⟨hmatched, hindex⟩ := hfound i hcode; rw [hmatched, hindex]; rfl

/-- In range: the request, the ticks of the episode, and the result collected. -/
theorem Undisturbed.search_ticks (h : Undisturbed s) (hidle : s.su.state = .idle)
    (hstate : s.pic.state = .predictWindow) (hrange : outOfRange s = false) {result : EpisodeResult}
    (hresult : episode s.pic.lastWord s.pic.cur.beamWord
      (predictedBudget s.pic.cur.timestamp s.pic.lastTimestamp) = result) :
    ∃ t : State, Host.Core.run core (result.ticks + 2) s = .next t ∧
      t.pic = { s.pic with polyIndex := codeOf result.found, state := .emit } := by
  obtain ⟨hpos, hmax⟩ := startOperands_budget hrange
  obtain ⟨a, hstepA, ha, hpicA, hsameA⟩ := h.request_tick hidle hstate hrange
  obtain ⟨hbusy, v, hv, hidleV, hcode⟩ := search_shows_code hpos hmax (result := result)
    (by rw [startOperands_eq hrange]; exact hresult)
  obtain ⟨b, hrunB, hb, hpicB, hsameB⟩ := ha.wait_ticks (by rw [hpicA]) hsameA hbusy
  rw [hv] at hsameB
  rw [hsameB.su] at hidleV hcode
  obtain ⟨c, hstepC, hpicC⟩ := hb.collect_tick hidleV (by rw [hpicB, hpicA])
  refine ⟨c, ?_, by rw [hpicC, hcode, hpicB, hpicA]⟩
  rw [run_succ_of_next core _ s a hstepA, run_add_of_next core _ 1 a b hrunB]
  exact run_succ_of_next core 0 b c hstepC

/-! ### The per-pulse function (R175, R234) -/

theorem identify_and_ticksToEmit_of_out_of_range {p : Params} {lastTimestamp : Timestamp} {lastWord : Word} {pulse : PulseRecord}
    (h : p.maxB < predictedBudget pulse.timestamp lastTimestamp) :
    identify p lastTimestamp lastWord pulse = unident ∧ ticksToEmit p lastTimestamp lastWord pulse = 2 :=
  ⟨if_pos h, if_pos h⟩

theorem identify_and_ticksToEmit_of_in_range {p : Params} {lastTimestamp : Timestamp} {lastWord : Word} {pulse : PulseRecord}
    (h : predictedBudget pulse.timestamp lastTimestamp ≤ p.maxB) {result : EpisodeResult}
    (hresult : episode lastWord pulse.beamWord (predictedBudget pulse.timestamp lastTimestamp) = result) :
    identify p lastTimestamp lastWord pulse = codeOf result.found ∧
      ticksToEmit p lastTimestamp lastWord pulse = result.ticks + 3 := by
  subst hresult
  exact ⟨if_neg h.not_gt, if_neg h.not_gt⟩

/-- From PredictWindow the controller goes to Emit with the code of the per-pulse function, in the ticks that follow the accept. -/
theorem Undisturbed.predict_to_emit (h : Undisturbed s) (hidle : s.su.state = .idle)
    (hstate : s.pic.state = .predictWindow) :
    ∃ (n : Nat) (t : State), ticksToEmit s.params s.pic.lastTimestamp s.pic.lastWord s.pic.cur = n + 1 ∧
      Host.Core.run core n s = .next t ∧
      t.pic = { s.pic with
        polyIndex := identify s.params s.pic.lastTimestamp s.pic.lastWord s.pic.cur, state := .emit } := by
  cases hrange : outOfRange s with
  | true =>
    obtain ⟨hcode, hticks⟩ := identify_and_ticksToEmit_of_out_of_range (lastWord := s.pic.lastWord) ((outOfRange_iff s).1 hrange)
    obtain ⟨t, hstep, hpic⟩ := h.skip_tick hstate hrange
    exact ⟨1, t, hticks, run_succ_of_next core 0 s t hstep, hcode ▸ hpic⟩
  | false =>
    obtain ⟨hcode, hticks⟩ := identify_and_ticksToEmit_of_in_range ((outOfRange_eq_false_iff s).1 hrange) rfl
    obtain ⟨t, hrun, hpic⟩ := h.search_ticks hidle hstate hrange rfl
    exact ⟨_, t, hticks, hrun, hcode ▸ hpic⟩

end

/-- Settles O43: the accept, and then the way from PredictWindow with the latches as they were. -/
theorem pulseGetsTheCodeOfItsEpisode : Obligations.PulseGetsTheCodeOfItsEpisode := by
  intro s pulse hfit hstate hidle hpulse hscript
  obtain ⟨a, hstep, ha, hparams, hidleA, hpicA⟩ := Undisturbed.accept_tick hscript hidle hstate hpulse hfit
  obtain ⟨n, t, hticks, hrun, hpic⟩ := ha.predict_to_emit hidleA (by rw [hpicA])
  rw [hpicA, hparams] at hticks hpic
  refine ⟨t, ?_, by rw [hpic], by rw [hpic], by rw [hpic]⟩
  rw [hticks, run_succ_of_next core n s a hstep, hrun]

end Sys2Proof.Machine
end

section
/-! PROOFS. Which ticks complete (R144, R190). The Search Unit's accepted start is the only operation of a tick that can be refused,
and the controller never asks for a budget that refuses it. -/

namespace Sys2Proof.Machine

variable {s : State}

/-! ### A refused operation refuses the tick (R144) -/

/-- The start's refusal is judged on the parameters alone, so the writes of the operations run before it do not change it. -/
theorem exec_suStart_refused {request : StartRequest} {v : State} (hparams : v.params = s.params)
    (hbudget : truncCw s.params request.tickBudget = 0) : exec (.suStart request) v = .refused .zeroBudget :=
  if_pos (hparams ▸ hbudget)

/-- The lines' operations all complete, so what the Search Unit's operation refuses the tick refuses. -/
theorem step_refused_of_su {suOp : Instr} {r : Refusal} (hrst : (fetchTick s).rst = false)
    (hdecode : decode (suEncoded s (fetchTick s)) = .ok suOp)
    (hrefused : ∀ v : State, v.params = s.params → exec suOp v = .refused r) : step s = .refused r := by
  choose op hop heff using exec_ba_selected (fetchTick s)
  obtain ⟨picOp, hpicOp, -⟩ := decode_picEncoded s (fetchTick s)
  obtain ⟨a, hlines, -, -, hframe⟩ := runOps_lines op _ heff (linesOf s.params) (linesOf_nodup _) s
    fun line => (mem_linesOf _ line).1
  have hexec : exec suOp a = .refused r := hrefused a (by rw [hframe])
  obtain ⟨-, hstop⟩ := stepRunsDecodedOperations s _ (tickOps_of_decode hrst hop hdecode hpicOp)
  exact hstop r (by rw [runOps_append_of_next hlines]; simp only [runOps, hexec])

/-- A reset tick completes, whatever stands on the start port (R75, R220). -/
theorem step_answers_of_rst (hrst : (fetchTick s).rst = true) : ∃ t, step s = .next t := by
  obtain ⟨t, -, hstep⟩ := resetTickRunsOnlyReset s hrst
  exact ⟨_, hstep⟩

/-- Settles O53: an idle Search Unit's start is refused on a zero budget, and with it the tick; a reset tick completes, and so does
any other in which no accepted start has a zero budget. -/
theorem tickCompletesUnlessZeroBudget : Obligations.TickCompletesUnlessZeroBudget := by
  refine fun s => ⟨fun ⟨hrst, hidle, request, hport, hbudget⟩ => ?_, fun hnot => ?_⟩
  · obtain ⟨-, hstart, -⟩ := searchUnitSelection s (fetchTick s)
    exact step_refused_of_su hrst (hstart request hidle hport) fun v hparams => exec_suStart_refused hparams hbudget
  · cases hrst : (fetchTick s).rst with
    | true => exact step_answers_of_rst hrst
    | false =>
      exact step_answers hrst fun request hidle hport hbudget => hnot ⟨hrst, hidle, request, hport, hbudget⟩

/-! ### The controller's own requests (R33, R163) -/

/-- Without a second requester the start port carries no zero budget: the controller asks for at least 1 and within the port. -/
theorem startPort_budget_ne_zero {ins : TickInputs} {request : StartRequest} (hother : ins.start = none)
    (hport : startPort s ins = some request) : truncCw s.params request.tickBudget ≠ 0 := by
  rw [startPort_of_no_other hother, Option.ite_none_right_eq_some] at hport
  obtain ⟨hvalid, hown⟩ := hport
  obtain rfl := Option.some.inj hown
  obtain ⟨-, hrange⟩ := (startValid_iff s).1 hvalid
  obtain ⟨hpos, hmax⟩ := startOperands_budget hrange
  rw [truncCw_of_lt hmax]
  exact Nat.ne_of_gt hpos

/-- Settles O54: the one refusal asks for a zero budget, which the controller never requests. -/
theorem assembledCoreAlwaysCompletes : Obligations.AssembledCoreAlwaysCompletes := by
  intro s hother
  obtain ⟨-, hcompletes⟩ := tickCompletesUnlessZeroBudget s
  exact hcompletes fun ⟨_, _, _, hport, hbudget⟩ => startPort_budget_ne_zero hother hport hbudget

end Sys2Proof.Machine
end

section
/-! PROOFS. The global reset (R220) and the state it leaves the machine in (R34, R223). -/

namespace Sys2Proof.Machine

/-- Where all four registers hold the empty value, each line's does. -/
theorem accs_getElem_of_empty {accs : Vector Acc 4} (h : accs = Vector.replicate 4 emptyAcc) (line : Line) :
    accs[line] = emptyAcc := by
  subst h
  exact Vector.getElem_replicate line.isLt

/-- In a reset tick each line's ports are read off its own register before the reset, with nothing accepted and no word taken. -/
theorem exec_coreReset_baPorts {s t : State} (hexec : exec .coreReset s = .next t) (line : Line) :
    t.baPorts[line] = resetBaPorts s.accs[line] := by
  cases hexec
  exact Vector.getElem_ofFn line.isLt

theorem pulseReady_iff (pic : PicRegs) : pulseReady pic = true ↔ pic.state = .idle := beq_iff_eq

/-- Settles O45: the reset is one write of the whole state, so only the values held per line need an argument. -/
theorem coreResetWritesResetValues : Obligations.CoreResetWritesResetValues := by
  refine fun s => ⟨decode_core .zero, _, rfl, accs_getElem_of_empty rfl, rfl, rfl, rfl, rfl, rfl, fun line => ?_,
    rfl, rfl, rfl, rfl, rfl, rfl, rfl⟩
  rw [exec_coreReset_baPorts rfl line]
  exact ⟨rfl, rfl⟩

/-- Settles O46: the fixed reset state holds the empty registers, and both blocks' states are Idle in it. -/
theorem resetStateIsInitial : Obligations.ResetStateIsInitial :=
  ⟨accs_getElem_of_empty rfl, rfl, rfl, (pulseReady_iff _).2 rfl⟩

end Sys2Proof.Machine
end
